-- ==== Sys2Proof/Word.lean ====
section
/-! DEFINITION. The widths of the block: bytes, 32-bit register and address words, the 30-bit length. -/

namespace Sys2Proof

/-- One byte of memory, one symbol of a text (00_scope.md R11). -/
abbrev Byte := BitVec 8

/-- A 32-bit register of the window: REG_W = 32 (00_scope.md R7). -/
abbrev Word := BitVec 32

/-- A bus address: ADDR_W = 32, arithmetic modulo 2^32 (00_scope.md R7, 20_memory.md R66). -/
abbrev Addr := BitVec 32

/-- A length: LEN_W = 30 (00_scope.md R7, 10_state.md R33). -/
abbrev Length := BitVec 30

/-- A 6-bit value, 0 to 63 (00_scope.md R11). -/
abbrev Sextet := BitVec 6

end Sys2Proof
end

