-- ==== Sys2Proof/Config.lean ====
section
/-! DEFINITION. What an implementation or its platform fixes, and the free values: constants without a body, so that no
proof can see what they are. -/

namespace Sys2Proof

/-- REG_WINDOW: the register window has 0x20 bytes (00_scope.md R7). -/
def Config.registerWindowBytes : Nat := 0x20

/-- The example instance of the OPEN parameter BASE (95_test_vectors.md section 3). DESIGN CHOICE, log entry 8: only
State.reset uses it; BASE itself is the field `base` of State. -/
def Config.exampleBase : Addr := 0x40000000#32

/-- FREE VALUE (log entry 3): what a byte of memory that nothing has written reads as, by address. -/
opaque Config.powerOnByte : Nat → Byte

/-- FREE VALUE (log entries 4 and 5): the n-th UNPREDICTABLE byte drawn, for DW after a failed or aborted command
(20_memory.md R65, 70_reset_and_hazards.md R221) and for a host read of DW while BUSY (R65). -/
opaque Config.freeByte : Nat → Byte

/-- FREE VALUE (log entry 6): which of the admitted errors a DECODE with a refused read reports (42_decode.md R159). -/
opaque Config.freeChoice : Nat → Nat

/-- FREE VALUE (log entry 10): what the group accumulator holds after the engine has worked (10_state.md R43). -/
opaque Config.freeAccumulator : Nat → BitVec 24

/-- FREE VALUE (log entry 10): the position in the 3-byte or 4-symbol cycle (10_state.md R43). -/
opaque Config.freePosition : Nat → BitVec 2

/-- FREE VALUE (log entry 10): the engine's read index (10_state.md R43). -/
opaque Config.freeReadIndex : Nat → BitVec 32

/-- FREE VALUE (log entry 10): the engine's write index (10_state.md R43). -/
opaque Config.freeWriteIndex : Nat → BitVec 32

/-- FREE VALUE (log entry 10): the block buffers of the datapath (10_state.md R43). -/
opaque Config.freeBuffer : Nat → List Byte

end Sys2Proof
end

