-- ==== Sys2Proof/Syntax.lean ====
section
/-! DEFINITION. The commands: one constructor per row of spec/opcode_table.json. -/

namespace Sys2Proof

/-- The commands a word written to CMD can name (30_encoding.md R92). No row has an operand field (R93: the operands are
the values latched at the start), and bits [31:3] of the word do not change what a command does (R91, R94), so no
constructor has an argument (log entry 16). -/
inductive Instr where
  /-- OP 1 (41_encode.md R134). -/
  | encode
  /-- OP 2 (42_decode.md R158). -/
  | decode
  /-- OP 3 (40_size_calculator.md R113). -/
  | encLen
  /-- OP 4 (40_size_calculator.md R114). -/
  | decLen
  /-- OP 0, illegal (30_encoding.md R94). -/
  | illegal0
  /-- OP 5, illegal (30_encoding.md R94). -/
  | illegal5
  /-- OP 6, illegal (30_encoding.md R94). -/
  | illegal6
  /-- OP 7, illegal (30_encoding.md R94). -/
  | illegal7
deriving DecidableEq, Repr

end Sys2Proof
end

