-- ==== Sys2Proof/WellFormed.lean ====
section
/-! DEFINITION. The checks on what a host presents: commands, command words and register accesses. -/

namespace Sys2Proof

/-- Every row of the opcode table is a well-formed command: an illegal OP is a defined command with a defined outcome
(30_encoding.md R94), so this check refuses no term. -/
def Instr.wellFormed : Instr → Bool
  | .encode => true
  | .decode => true
  | .encLen => true
  | .decLen => true
  | .illegal0 => true
  | .illegal5 => true
  | .illegal6 => true
  | .illegal7 => true

/-- "software should write 0" in bits [31:3] of a command word (30_encoding.md R91): the form the encoder writes. A word
that is not of this form still executes (R94). -/
def canonicalCommandWord (w : Word) : Bool := decide (w >>> 3 = 0#32)

/-- A host access to the register window is defined only when it is a 32-bit access at an offset that is a multiple of 4
(10_state.md R23); `offset` counts from BASE, `size` is in bytes. -/
def registerAccessWellFormed (offset size : Nat) : Bool :=
  decide (size = 4) && decide (offset % 4 = 0) && decide (offset < Config.registerWindowBytes)

end Sys2Proof
end

