-- ==== Sys2Proof/Decode.lean ====
section
/-! DEFINITION. The command decoder, total on words and on bytes, and the encoder, both from the opcode map of
30_encoding.md R92; the byte order of register bytes on the bus (10_state.md R23). -/

namespace Sys2Proof

/-- A register's bytes on the bus: bits [7:0] at offset+0, bits [31:24] at offset+3 (10_state.md R23). -/
def bytesOfWord (w : Word) : List Byte :=
  [w.extractLsb' 0 8, w.extractLsb' 8 8, w.extractLsb' 16 8, w.extractLsb' 24 8]

/-- The word whose bus bytes are b0 (lowest address) to b3 (10_state.md R23). -/
def wordOfBytes (b0 b1 b2 b3 : Byte) : Word :=
  b3 ++ b2 ++ b1 ++ b0

/-- The OP field: bits [2:0] of a command word (30_encoding.md R91). -/
def commandOp (w : Word) : BitVec 3 := w.extractLsb' 0 3

/-- The opcode map (30_encoding.md R92). -/
def decodeOp (op : BitVec 3) : Instr :=
  if op = 0#3 then .illegal0
  else if op = 1#3 then .encode
  else if op = 2#3 then .decode
  else if op = 3#3 then .encLen
  else if op = 4#3 then .decLen
  else if op = 5#3 then .illegal5
  else if op = 6#3 then .illegal6
  else .illegal7

/-- The command a word written to CMD presents: "A decoder needs only w[2:0]" (30_encoding.md R92). -/
def decodeWord (w : Word) : Instr := decodeOp (commandOp w)

/-- Whether an accepted start sets BUSY: "if LOP in {1, 2, 3, 4}" (10_state.md R37). -/
def Instr.legal : Instr → Bool
  | .encode => true
  | .decode => true
  | .encLen => true
  | .decLen => true
  | .illegal0 => false
  | .illegal5 => false
  | .illegal6 => false
  | .illegal7 => false

/-- What the decoder makes of a list of bus bytes. -/
inductive DecodeResult where
  /-- a command, and the bytes after its word -/
  | command (i : Instr) (rest : List Byte)
  /-- rejected: a command is one 32-bit word (30_encoding.md R90) and fewer than four bytes are there -/
  | shortWord (present : Nat)
deriving DecidableEq, Repr

/-- The decoder on bytes in bus order: every command is one 32-bit word (30_encoding.md R90, R95). -/
def decodeBytes : List Byte → DecodeResult
  | b0 :: b1 :: b2 :: b3 :: rest => .command (decodeWord (wordOfBytes b0 b1 b2 b3)) rest
  | bs => .shortWord bs.length

/-- The OP of each command (30_encoding.md R92). -/
def Instr.opcode : Instr → BitVec 3
  | .encode => 1#3
  | .decode => 2#3
  | .encLen => 3#3
  | .decLen => 4#3
  | .illegal0 => 0#3
  | .illegal5 => 5#3
  | .illegal6 => 6#3
  | .illegal7 => 7#3

/-- The command word with its ignored bits as given: `ignored ++ OP` (30_encoding.md R91). -/
def commandWord (ignored : BitVec 29) (i : Instr) : Word := ignored ++ i.opcode

/-- The encoder: the word software should write, bits [31:3] zero (30_encoding.md R91). -/
def encode (i : Instr) : Word := commandWord 0#29 i

/-- The encoder on bytes, in bus order. -/
def encodeBus (i : Instr) : List Byte := bytesOfWord (encode i)

/-- One row of the machine-readable opcode table: mask and match (30_encoding.md R92). -/
structure OpcodeRow where
  mask : Word
  pattern : Word
  instr : Instr
deriving DecidableEq, Repr

/-- spec/opcode_table.json, row by row. -/
def opcodeTable : List OpcodeRow :=
  [⟨0x7#32, 0x1#32, .encode⟩, ⟨0x7#32, 0x2#32, .decode⟩, ⟨0x7#32, 0x3#32, .encLen⟩, ⟨0x7#32, 0x4#32, .decLen⟩,
   ⟨0x7#32, 0x0#32, .illegal0⟩, ⟨0x7#32, 0x5#32, .illegal5⟩, ⟨0x7#32, 0x6#32, .illegal6⟩, ⟨0x7#32, 0x7#32, .illegal7⟩]

/-- A row matches a word when the masked word is the row's pattern. -/
def OpcodeRow.accepts (r : OpcodeRow) (w : Word) : Bool := w &&& r.mask == r.pattern

/-- The bus bytes of an instruction whose bits are `w`, `nbits` of them, bit 0 the least significant bit of the first
byte; bits above `nbits` are zero, up to the one 32-bit word a command has. -/
def tableBytes (nbits w : Nat) : List Byte :=
  (List.range (max 4 ((nbits + 7) / 8))).map fun k => BitVec.ofNat 8 ((w % 2 ^ nbits) / 2 ^ (8 * k))

/-- The command word those bits make. -/
def tableWord (nbits w : Nat) : Word := BitVec.ofNat 32 (w % 2 ^ nbits)

/-- What the decoder reads from a row's word, numbered as the table numbers it; none where it refuses the bytes, or where
bytes are left over. -/
def decodeTableWord (nbits w : Nat) : Option Instr :=
  match decodeBytes (tableBytes nbits w) with
  | .command i [] => some i
  | .command _ (_ :: _) => none
  | .shortWord _ => none

end Sys2Proof
end

