-- ==== Sys2Proof/Machine/State.lean ====
section
/-! DEFINITION. What the machine holds: the register window's storage, the latched operands, the engine's working state,
system memory, the platform's data, and the outside events still to come; why a step is refused; the state after reset. -/

namespace Sys2Proof.Machine

open Sys2Proof

/-- Nothing the spec describes stops the machine with a fault: "The block has no traps. A command that meets an error still
completes" (60_exceptions.md, opening and R199). So there is no reason of this kind. -/
inductive Fault where
deriving DecidableEq, Repr

/-- Why the model makes no claim about a run: what the spec calls UNDEFINED ("the model refuses", 00_scope.md R12). -/
inductive Refusal where
  /-- Raised by exec's arm of a command that has no meaning yet. Safe. -/
  | notModelled (mnemonic : String)
  /-- Raised by a host bus access that touches the register window and is not a 32-bit access at an offset that is a
  multiple of 4 (10_state.md R23, 70_reset_and_hazards.md R230). Safe. -/
  | undefinedRegisterAccess
  /-- Raised by the start, and again by the execution, of a command whose SW and DW share an address (20_memory.md R71).
  Safe. -/
  | overlappingWindows
  /-- Raised by the start, and again by the execution, of a command whose SW or DW holds an address with side effects,
  the block's own window among them (20_memory.md R69). Safe. -/
  | sideEffectWindow
  /-- Raised by a bus write to a byte of SW or DW while the engine is BUSY (20_memory.md R72). Safe. -/
  | windowWrittenWhileBusy
  /-- Raised by a host access to a device of the platform outside the block, whose behaviour no rule gives (log entry 12).
  Safe. -/
  | hostDeviceAccess
deriving DecidableEq, Repr

/-- A range of bus addresses: `len` bytes from `start`, continuing at 0 past 0xFFFFFFFF (20_memory.md R66). -/
structure Window where
  start : Addr
  len : Nat
deriving DecidableEq, Repr

/-- The eight registers of the window (10_state.md R22). -/
inductive Reg where
  | ctrl
  | cmd
  | status
  | errCode
  | srcAddr
  | srcLen
  | dstAddr
  | result
deriving DecidableEq, Repr

/-- The error kinds of ERR_CODE (60_exceptions.md R190); the reserved codes 4 and 7 to 15 are no kinds (R197). -/
inductive ErrorKind where
  | invalidLength
  | invalidCharacter
  | invalidPadding
  | busError
  | illegalCommand
deriving DecidableEq, Repr

/-- Who a bus write comes from: the host whose program runs (30_encoding.md R96), or any other agent, another host among
them (60_exceptions.md R206). The block does not tell them apart (R203). -/
inductive Requester where
  | host
  | other
deriving DecidableEq, Repr

/-- What may happen next outside the engine's own progress (log entry 1). -/
inductive Event where
  /-- A bus write, lowest address first. -/
  | busWrite (requester : Requester) (addr : Addr) (bytes : List Byte)
  /-- A bus read by the host. -/
  | busRead (addr : Addr) (count : Nat)
  /-- POLL (30_encoding.md R96): read STATUS until BUSY reads 0; `busyReads` is how many BUSY reads may pass before the
  engine, moving fairly, takes its step (70_reset_and_hazards.md R231; log entry 14). -/
  | poll (busyReads : Nat)
  /-- The engine's turn. -/
  | engine
  /-- The platform asserts reset (70_reset_and_hazards.md R220, R221). -/
  | reset
  /-- A write the engine had issued before a reset aborted its command is performed now (70_reset_and_hazards.md R221, U16;
  log entry 24). -/
  | lateWrite (addr : Addr)
  /-- The interconnect's refusals become these (20_memory.md R70; log entry 7). -/
  | interconnect (noRead noWrite : List Window)
deriving DecidableEq, Repr

/-- The engine's internal working state (10_state.md R43), not observable by the host. -/
structure EngineWork where
  acc : BitVec 24
  position : BitVec 2
  readIndex : BitVec 32
  writeIndex : BitVec 32
  buffer : List Byte
deriving DecidableEq, Repr

/-- System memory as what has been written: address and byte, addresses strictly rising. -/
abbrev Memory := List Host.Cell

/-- The whole state: the block, the memory it reaches, and the platform around it. Each field's rule stands in INVENTORY.md. -/
structure State where
  ie : Bool
  busy : Bool
  done : Bool
  ovr : Bool
  errCode : BitVec 4
  srcAddr : Addr
  srcLen : Length
  dstAddr : Addr
  result : Word
  lop : BitVec 3
  lsrc : Addr
  llen : Length
  ldst : Addr
  work : EngineWork
  mem : Memory
  base : Addr
  devices : List Window
  noRead : List Window
  noWrite : List Window
  aborted : List Window
  inbox : List Event
  reads : List (List Byte)
  freeCount : Nat
deriving DecidableEq, Repr

/-- Whose turn it is and what comes of it: a command runs, or a host or platform action has its outcome. -/
inductive Turn where
  | run (i : Instr) (s : State)
  | next (s : State)
  | refused (r : Refusal)
deriving DecidableEq, Repr

/-- The working state after reset: "unspecified; unobservable" (70_reset_and_hazards.md R220). DESIGN CHOICE zero, log
entry 9. -/
def EngineWork.reset : EngineWork :=
  { acc := 0#24, position := 0#2, readIndex := 0#32, writeIndex := 0#32, buffer := [] }

/-- The machine right after reset (70_reset_and_hazards.md R220). The latched operands and the working state are
unspecified there (DESIGN CHOICE zero, log entry 9); BASE is the spec's example instance and the platform has no device
and refuses nothing (DESIGN CHOICE, log entry 8); nothing is listed in memory (log entry 3). -/
def State.reset : State where
  ie := false
  busy := false
  done := false
  ovr := false
  errCode := 0#4
  srcAddr := 0#32
  srcLen := 0#30
  dstAddr := 0#32
  result := 0#32
  lop := 0#3
  lsrc := 0#32
  llen := 0#30
  ldst := 0#32
  work := EngineWork.reset
  mem := []
  base := Config.exampleBase
  devices := []
  noRead := []
  noWrite := []
  aborted := []
  inbox := []
  reads := []
  freeCount := 0

end Sys2Proof.Machine
end

