-- ==== Sys2Proof/Machine/Ops.lean ====
section
/-! DEFINITION. The operations every command shares: memory, windows, the engine's bus accesses, the free values, and the
completion step in its two forms, success (10_state.md R36) and error (60_exceptions.md R191), with the acknowledgement. -/

namespace Sys2Proof.Machine

open Sys2Proof

/-! ## System memory -/

/-- The byte last written at an address; none where nothing has been written (log entry 3). -/
def Memory.read : Memory → Nat → Option Byte
  | [], _ => none
  | (k, v) :: m, a => if a = k then some v else Memory.read m a

/-- A one-byte write; addresses stay strictly rising. -/
def Memory.write : Memory → Nat → Byte → Memory
  | [], a, v => [(a, v)]
  | (k, u) :: m, a, v =>
    if a < k then (a, v) :: (k, u) :: m
    else if a = k then (a, v) :: m
    else (k, u) :: Memory.write m a v

/-- Addresses strictly rising, each at least `lo` and within the 32-bit space (20_memory.md R60). -/
def Memory.risingFrom : Nat → Memory → Bool
  | _, [] => true
  | lo, (k, _) :: m => decide (lo ≤ k) && decide (k < 2 ^ 32) && Memory.risingFrom (k + 1) m

/-- The canonical form. An unlisted address holds no value, so no entry can equal what an unlisted address reads as. -/
def Memory.wf (m : Memory) : Bool := Memory.risingFrom 0 m

/-- Element i of a sequence goes to (a + i) mod 2^32 (20_memory.md R61, R66). -/
def writeBytes : Memory → Addr → List Byte → Memory
  | m, _, [] => m
  | m, a, b :: bs => writeBytes (Memory.write m a.toNat b) (a + 1#32) bs

/-- What a read of memory returns: the value last written (20_memory.md R69), and a free value, the same at every read of
that address, where nothing has been written (log entry 3). -/
def State.memByte (s : State) (a : Addr) : Byte :=
  match Memory.read s.mem a.toNat with
  | some v => v
  | none => Config.powerOnByte a.toNat

/-! ## Windows -/

/-- Whether an address is one of a window's (20_memory.md R62, R63, R66). -/
def Window.has (w : Window) (a : Addr) : Bool := decide ((a - w.start).toNat < w.len)

/-- Whether two windows share an address: one of them holds the other's first. -/
def Window.overlaps (v w : Window) : Bool :=
  decide (v.len ≠ 0) && decide (w.len ≠ 0) && (v.has w.start || w.has v.start)

/-- Whether some window of a list holds the address. -/
def anyHas (ws : List Window) (a : Addr) : Bool := ws.any fun w => w.has a

/-- Whether some window of a list shares an address with the window. -/
def anyOverlaps (ws : List Window) (w : Window) : Bool := ws.any fun v => v.overlaps w

/-- The register window: 0x20 bytes at BASE (10_state.md R22, 00_scope.md R7). -/
def State.registerWindow (s : State) : Window := ⟨s.base, Config.registerWindowBytes⟩

/-- The addresses with side effects: the platform's devices and the block's own window (20_memory.md R69, U10). -/
def State.sideEffects (s : State) : List Window := s.registerWindow :: s.devices

/-! ## The engine's bus accesses -/

/-- `MemRead(addr, 1)`: a byte, or none for BUSERR (00_scope.md R10, 20_memory.md R70). -/
def engineRead (s : State) (a : Addr) : Option Byte :=
  if anyHas s.noRead a then none else some (s.memByte a)

/-- The reads of n elements from address a, in order of the elements (20_memory.md R61; their order on the bus is not
observable, R64, log entry 2). -/
def engineReads (s : State) : Addr → Nat → List (Option Byte)
  | _, 0 => []
  | a, n + 1 => engineRead s a :: engineReads s (a + 1#32) n

/-- All the bytes read, or none if any read returned BUSERR. -/
def allRead : List (Option Byte) → Option (List Byte)
  | [] => some []
  | none :: _ => none
  | some b :: rest =>
    match allRead rest with
    | none => none
    | some bs => some (b :: bs)

/-- `MemWrite(addr, 1, v)`: the state after it, or none for BUSERR (00_scope.md R10, 20_memory.md R70). -/
def engineWrite (s : State) (a : Addr) (v : Byte) : Option State :=
  if anyHas s.noWrite a then none else some { s with mem := Memory.write s.mem a.toNat v }

/-- The writes of a sequence at address a, or none if any write returned BUSERR. -/
def engineWrites : State → Addr → List Byte → Option State
  | s, _, [] => some s
  | s, a, b :: bs =>
    match engineWrite s a b with
    | none => none
    | some t => engineWrites t (a + 1#32) bs

/-! ## Free values -/

/-- The `count` UNPREDICTABLE bytes that start at the n-th draw. -/
def freeBytes (n count : Nat) : List Byte := (List.range count).map fun j => Config.freeByte (n + j)

/-- Every byte of the window becomes UNPREDICTABLE, each byte separately (20_memory.md R65, U5; log entry 4). -/
def scramble (w : Window) (s : State) : State :=
  { s with mem := writeBytes s.mem w.start (freeBytes s.freeCount w.len), freeCount := s.freeCount + w.len }

/-- The engine has worked: its internal working state holds some values no rule gives (10_state.md R43; log entry 10). -/
def engineWorked (s : State) : State :=
  { s with
    work :=
      { acc := Config.freeAccumulator s.freeCount
        position := Config.freePosition s.freeCount
        readIndex := Config.freeReadIndex s.freeCount
        writeIndex := Config.freeWriteIndex s.freeCount
        buffer := Config.freeBuffer s.freeCount }
    freeCount := s.freeCount + 1 }

/-! ## Ending a command: the block's exception entry, and its acknowledgement -/

/-- ERR_CODE.CODE of a kind (60_exceptions.md R190). -/
def ErrorKind.code : ErrorKind → BitVec 4
  | .invalidLength => 1#4
  | .invalidCharacter => 2#4
  | .invalidPadding => 3#4
  | .busError => 5#4
  | .illegalCommand => 6#4

/-- The completion step both ends share: RESULT, ERR_CODE, DONE = 1 and BUSY = 0 in one state change (10_state.md R36,
60_exceptions.md R191). -/
def completion (count : Word) (code : BitVec 4) (s : State) : State :=
  { s with result := count, errCode := code, done := true, busy := false }

/-- `complete(result)` (10_state.md R36). -/
def complete (count : Nat) (s : State) : State := completion (BitVec.ofNat 32 count) 0#4 s

/-- `raise Error(kind)` (60_exceptions.md R191): what takes the place of trap entry in this block (R199). -/
def raiseError (kind : ErrorKind) (s : State) : State := completion 0#32 kind.code s

/-- What takes the place of a return: the host's acknowledgement clears DONE; ERR_CODE and RESULT keep their values
(60_exceptions.md R200). -/
def acknowledge (s : State) : State := { s with done := false }

end Sys2Proof.Machine
end

