-- ==== Sys2Proof/Machine/Flags.lean ====
section
/-! DEFINITION. The flags: the STATUS word and its write-1-to-clear bits, STATUS.ERR, the IRQ output. -/

namespace Sys2Proof.Machine

open Sys2Proof

/-- STATUS.ERR: 1 exactly when ERR_CODE.CODE is not 0; no storage of its own (10_state.md R29). -/
def State.err (s : State) : Bool := s.errCode != 0#4

/-- IRQ = CTRL.IE & STATUS.DONE, at every instant (10_state.md R44, 60_exceptions.md R201). -/
def State.irq (s : State) : Bool := s.ie && s.done

/-- STATUS as the host reads it: BUSY[0], DONE[1], ERR[2], OVR[3], [31:4] zero (10_state.md R26). -/
def State.statusWord (s : State) : Word :=
  (BitVec.ofBool s.ovr ++ BitVec.ofBool s.err ++ BitVec.ofBool s.done ++ BitVec.ofBool s.busy).setWidth 32

/-- STATUS.OVR is cleared (10_state.md R30). -/
def clearOverrun (s : State) : State := { s with ovr := false }

/-- A CMD write arrived while BUSY: only STATUS.OVR changes (10_state.md R30, R38). -/
def setOverrun (s : State) : State := { s with ovr := true }

/-- A host write of `w` to STATUS: DONE and OVR are W1C, every other bit ignores the write (10_state.md R26, R28, R30). -/
def writeStatus (w : Word) (s : State) : State :=
  let acked := if w.getLsbD 1 then acknowledge s else s
  if w.getLsbD 3 then clearOverrun acked else acked

end Sys2Proof.Machine
end

