-- ==== Sys2Proof/Machine/SizeCalculator.lean ====
section
/-! DEFINITION. The Size Calculator: encoded_length (40_size_calculator.md R110) and decoded_length (R111). -/

namespace Sys2Proof.Machine

open Sys2Proof

/-- The padding symbol `=` (00_scope.md R11). -/
def padSymbol : Byte := 0x3D#8

/-- encoded_length(n) = 4 * ((n + 2) / 3) (40_size_calculator.md R110). -/
def encodedLength (n : Nat) : Nat := 4 * ((n + 2) / 3)

/-- A pure function's answer: a value, or the error kind it raises. -/
inductive Answer (α : Type) where
  | ok (value : α)
  | err (kind : ErrorKind)
deriving DecidableEq, Repr

/-- decoded_length(t, |t|) (40_size_calculator.md R111). -/
def decodedLength (t : List Byte) : Answer Nat :=
  if t.length % 4 ≠ 0 then .err .invalidLength
  else if t.length = 0 then .ok 0
  else
    let p :=
      if t[t.length - 1]? = some padSymbol then
        if t[t.length - 2]? = some padSymbol then 2 else 1
      else 0
    .ok (t.length / 4 * 3 - p)

end Sys2Proof.Machine
end

