-- ==== Sys2Proof/Machine/Operands.lean ====
section
/-! DEFINITION. The operands of a command: what an accepted start latches (10_state.md R37, R39), the source and
destination windows they give (20_memory.md R62, R63), and when a command is UNDEFINED (R69, R71). -/

namespace Sys2Proof.Machine

open Sys2Proof

/-- The part of an accepted start that is the same for every OP: the operands are latched, DONE, ERR_CODE and RESULT are
cleared (10_state.md R37). OVR is not cleared (R30). -/
def latch (w : Word) (s : State) : State :=
  { s with
    lop := commandOp w
    lsrc := s.srcAddr
    llen := s.srcLen
    ldst := s.dstAddr
    done := false
    errCode := 0#4
    result := 0#32 }

/-- The phase becomes BUSY (10_state.md R37). -/
def enterBusy (s : State) : State := { s with busy := true }

/-- LLEN as an unsigned natural (30_encoding.md R93). -/
abbrev State.count (s : State) : Nat := s.llen.toNat

/-- SW, the addresses the engine may read (20_memory.md R62). -/
def srcWindow (i : Instr) (s : State) : Window :=
  match i with
  | .encode => ⟨s.lsrc, s.count⟩
  | .decode => if s.count % 4 = 0 then ⟨s.lsrc, s.count⟩ else ⟨s.lsrc, 0⟩
  | .decLen =>
    if s.count % 4 = 0 ∧ 0 < s.count then ⟨s.lsrc + BitVec.ofNat 32 (s.count - 2), 2⟩ else ⟨s.lsrc, 0⟩
  | .encLen => ⟨s.lsrc, 0⟩
  | .illegal0 => ⟨s.lsrc, 0⟩
  | .illegal5 => ⟨s.lsrc, 0⟩
  | .illegal6 => ⟨s.lsrc, 0⟩
  | .illegal7 => ⟨s.lsrc, 0⟩

/-- DW, the addresses the engine may write (20_memory.md R63). -/
def dstWindow (i : Instr) (s : State) : Window :=
  match i with
  | .encode => ⟨s.ldst, encodedLength s.count⟩
  | .decode => if s.count % 4 = 0 then ⟨s.ldst, 3 * (s.count / 4)⟩ else ⟨s.ldst, 0⟩
  | .encLen => ⟨s.ldst, 0⟩
  | .decLen => ⟨s.ldst, 0⟩
  | .illegal0 => ⟨s.ldst, 0⟩
  | .illegal5 => ⟨s.ldst, 0⟩
  | .illegal6 => ⟨s.ldst, 0⟩
  | .illegal7 => ⟨s.ldst, 0⟩

/-- Whether the spec calls the command UNDEFINED with these operands, and which rule does: SW and DW share an address
(20_memory.md R71), or one of them holds an address with side effects (R69). -/
def undefinedCommand (i : Instr) (s : State) : Option Refusal :=
  if (srcWindow i s).overlaps (dstWindow i s) then some .overlappingWindows
  else if anyOverlaps s.sideEffects (srcWindow i s) || anyOverlaps s.sideEffects (dstWindow i s) then
    some .sideEffectWindow
  else none

/-- The engine executes a command that is defined with these operands; of an UNDEFINED one no claim is made
(00_scope.md R12). -/
def whenDefined (i : Instr) (run : State → State) (s : State) : Host.Outcome State Fault Refusal :=
  match undefinedCommand i s with
  | some r => .refused r
  | none => .next (run (engineWorked s))

/-- A command ends with an error; the bytes of its DW are then UNPREDICTABLE (20_memory.md R65; DW is empty after
InvalidLength). -/
def failCommand (i : Instr) (kind : ErrorKind) (s : State) : State := raiseError kind (scramble (dstWindow i s) s)

end Sys2Proof.Machine
end

