-- ==== Sys2Proof/Machine/Tables.lean ====
section
/-! DEFINITION. The two constant tables: EncodeTable (10_state.md R40) and DecodeTable (R41). -/

namespace Sys2Proof.Machine

open Sys2Proof

/-- EncodeTable, from 6-bit value to symbol (10_state.md R40). -/
def encodeTable (v : Sextet) : Byte :=
  if v < 26#6 then v.setWidth 8 + 0x41#8
  else if v < 52#6 then v.setWidth 8 + 0x47#8
  else if v < 62#6 then v.setWidth 8 - 4#8
  else if v = 62#6 then 0x2B#8
  else 0x2F#8

/-- A class of the DecodeTable; the sentinels have no observable encoding (10_state.md R41, R42). -/
inductive SymbolClass where
  | val (v : Sextet)
  | pad
  | invalid
deriving DecidableEq, Repr

/-- DecodeTable, from byte to class (10_state.md R41). -/
def decodeTable (b : Byte) : SymbolClass :=
  if 0x41#8 ≤ b ∧ b ≤ 0x5A#8 then .val ((b - 0x41#8).setWidth 6)
  else if 0x61#8 ≤ b ∧ b ≤ 0x7A#8 then .val ((b - 0x47#8).setWidth 6)
  else if 0x30#8 ≤ b ∧ b ≤ 0x39#8 then .val ((b + 4#8).setWidth 6)
  else if b = 0x2B#8 then .val 62#6
  else if b = 0x2F#8 then .val 63#6
  else if b = 0x3D#8 then .pad
  else .invalid

end Sys2Proof.Machine
end

