-- ==== Sys2Proof/Machine/DecodeCommand.lean ====
section
/-! DEFINITION. DECODE: the pure function DecodeText (42_decode.md R150 to R157) and the command (R158, R159). -/

namespace Sys2Proof.Machine

open Sys2Proof

/-- SymbolError: the error the symbol at index i causes in a text of `groups` groups; `c` is its class and `before` the
class of the symbol at i - 1 where that one was read. The first matching line decides (42_decode.md R152). -/
def symbolError (groups i : Nat) (before : Option SymbolClass) (c : SymbolClass) : Option ErrorKind :=
  match c with
  | .invalid => some .invalidCharacter
  | .pad => if i % 4 = 0 ∨ i % 4 = 1 then some .invalidPadding
            else if i / 4 ≠ groups - 1 then some .invalidPadding
            else none
  | .val _ => if i % 4 = 3 ∧ before = some .pad then some .invalidPadding else none

/-- The errors of the symbols that were read, in increasing index from i (42_decode.md R150, R159); `none` in the list
stands for a symbol whose read was refused. -/
def symbolErrors (groups : Nat) : Nat → Option SymbolClass → List (Option SymbolClass) → List ErrorKind
  | _, _, [] => []
  | i, _, none :: rest => symbolErrors groups (i + 1) none rest
  | i, before, some c :: rest =>
    match symbolError groups i before c with
    | some e => e :: symbolErrors groups (i + 1) (some c) rest
    | none => symbolErrors groups (i + 1) (some c) rest

/-- B0 of a group: (v0 << 2) | (v1 >> 4) (42_decode.md R153). -/
def groupByte0 (v0 v1 : Sextet) : Byte := (v0.setWidth 8 <<< 2) ||| (v1.setWidth 8 >>> 4)

/-- B1 of a group: ((v1 & 0xF) << 4) | (v2 >> 2) (42_decode.md R153). -/
def groupByte1 (v1 v2 : Sextet) : Byte := ((v1.setWidth 8 &&& 0xF#8) <<< 4) ||| (v2.setWidth 8 >>> 2)

/-- B2 of a group: ((v2 & 0x3) << 6) | v3 (42_decode.md R153). -/
def groupByte2 (v2 v3 : Sextet) : Byte := ((v2.setWidth 8 &&& 0x3#8) <<< 6) ||| v3.setWidth 8

/-- GroupBytes: four values, one `=`, two `=` (42_decode.md R153 to R155). The discarded bits of R156 enter no byte. No
other arrangement passes SymbolError (R155), so what it would give is never used. -/
def groupBytes (c0 c1 c2 c3 : SymbolClass) : List Byte :=
  match c0, c1, c2, c3 with
  | .val v0, .val v1, .val v2, .val v3 => [groupByte0 v0 v1, groupByte1 v1 v2, groupByte2 v2 v3]
  | .val v0, .val v1, .val v2, .pad => [groupByte0 v0 v1, groupByte1 v1 v2]
  | .val v0, .val v1, .pad, .pad => [groupByte0 v0 v1]
  | _, _, _, _ => []

/-- The groups in order (42_decode.md R150). -/
def packGroups : List SymbolClass → List Byte
  | c0 :: c1 :: c2 :: c3 :: rest => groupBytes c0 c1 c2 c3 ++ packGroups rest
  | _ => []

/-- DecodeText: the length first, then the lowest offending index, then the bytes (42_decode.md R150). -/
def decodeText (t : List Byte) : Answer (List Byte) :=
  if t.length % 4 ≠ 0 then .err .invalidLength
  else
    match symbolErrors (t.length / 4) 0 none (t.map fun b => some (decodeTable b)) with
    | e :: _ => .err e
    | [] => .ok (packGroups (t.map decodeTable))

/-- One of BusError and the kinds found among the symbols that were read, which one being free (42_decode.md R159; log
entry 6). With no data error among them it is BusError. -/
def pickError (choice : Nat) (kinds : List ErrorKind) : ErrorKind :=
  match kinds with
  | [] => .busError
  | k :: ks =>
    match (k :: ks)[choice % (ks.length + 2)]? with
    | some kind => kind
    | none => .busError

/-- A DECODE some of whose reads were refused (42_decode.md R159). -/
def refusedReadFailure (reads : List (Option Byte)) (s : State) : State :=
  failCommand .decode
    (pickError (Config.freeChoice s.freeCount)
      (symbolErrors (s.count / 4) 0 none (reads.map fun r => r.map decodeTable)))
    { s with freeCount := s.freeCount + 1 }

/-- DECODE's pseudocode (42_decode.md R158). -/
def decodeCommand (s : State) : State :=
  if s.count % 4 ≠ 0 then failCommand .decode .invalidLength s
  else
    match allRead (engineReads s s.lsrc s.count) with
    | none => refusedReadFailure (engineReads s s.lsrc s.count) s
    | some t =>
      match decodeText t with
      | .err kind => failCommand .decode kind s
      | .ok bytes =>
        match engineWrites s s.ldst bytes with
        | none => failCommand .decode .busError s
        | some u => complete bytes.length u

/-- DECODE. -/
def execDecode (s : State) : Host.Outcome State Fault Refusal := whenDefined .decode decodeCommand s

end Sys2Proof.Machine
end

