-- ==== Sys2Proof/Machine/EncodeCommand.lean ====
section
/-! DEFINITION. ENCODE: the pure function EncodeBytes (41_encode.md R130 to R132) and the command (R134). -/

namespace Sys2Proof.Machine

open Sys2Proof

/-- v0 of a group: b0 >> 2 (41_encode.md R130). -/
def sextet0 (b0 : Byte) : Sextet := (b0 >>> 2).setWidth 6

/-- v1 of a group: ((b0 & 0x3) << 4) | (b1 >> 4) (41_encode.md R130). -/
def sextet1 (b0 b1 : Byte) : Sextet := (((b0 &&& 0x3#8) <<< 4) ||| (b1 >>> 4)).setWidth 6

/-- v2 of a group: ((b1 & 0xF) << 2) | (b2 >> 6) (41_encode.md R130). -/
def sextet2 (b1 b2 : Byte) : Sextet := (((b1 &&& 0xF#8) <<< 2) ||| (b2 >>> 6)).setWidth 6

/-- v3 of a group: b2 & 0x3F (41_encode.md R130). -/
def sextet3 (b2 : Byte) : Sextet := (b2 &&& 0x3F#8).setWidth 6

/-- The four symbols of a full group (41_encode.md R130). -/
def encodeGroup (b0 b1 b2 : Byte) : List Byte :=
  [encodeTable (sextet0 b0), encodeTable (sextet1 b0 b1), encodeTable (sextet2 b1 b2), encodeTable (sextet3 b2)]

/-- Tail1: a final group of one byte; v1 is (b0 & 0x3) << 4, its low 4 bits 0 (41_encode.md R131). -/
def tail1 (b0 : Byte) : List Byte :=
  [encodeTable (sextet0 b0), encodeTable (((b0 &&& 0x3#8) <<< 4).setWidth 6), padSymbol, padSymbol]

/-- Tail2: a final group of two bytes; v2 is (b1 & 0xF) << 2, its low 2 bits 0 (41_encode.md R132). -/
def tail2 (b0 b1 : Byte) : List Byte :=
  [encodeTable (sextet0 b0), encodeTable (sextet1 b0 b1), encodeTable (((b1 &&& 0xF#8) <<< 2).setWidth 6), padSymbol]

/-- EncodeBytes: full groups in order, then the tail (41_encode.md R130). -/
def encodeBytes : List Byte → List Byte
  | b0 :: b1 :: b2 :: rest => encodeGroup b0 b1 b2 ++ encodeBytes rest
  | [b0, b1] => tail2 b0 b1
  | [b0] => tail1 b0
  | [] => []

/-- ENCODE's pseudocode (41_encode.md R134). -/
def encodeCommand (s : State) : State :=
  match allRead (engineReads s s.lsrc s.count) with
  | none => failCommand .encode .busError s
  | some b =>
    match engineWrites s s.ldst (encodeBytes b) with
    | none => failCommand .encode .busError s
    | some t => complete (encodedLength s.count) t

/-- ENCODE. -/
def execEncode (s : State) : Host.Outcome State Fault Refusal := whenDefined .encode encodeCommand s

end Sys2Proof.Machine
end

