-- ==== Sys2Proof/Machine/IllegalCommands.lean ====
section
/-! DEFINITION. The illegal OP values 0, 5, 6 and 7 (30_encoding.md R94, 60_exceptions.md R196): each ends at once with
IllegalCommand, makes no memory access and leaves RESULT 0. -/

namespace Sys2Proof.Machine

open Sys2Proof

/-- OP 0. -/
def execIllegal0 (s : State) : Host.Outcome State Fault Refusal := .next (raiseError .illegalCommand s)

/-- OP 5. -/
def execIllegal5 (s : State) : Host.Outcome State Fault Refusal := .next (raiseError .illegalCommand s)

/-- OP 6. -/
def execIllegal6 (s : State) : Host.Outcome State Fault Refusal := .next (raiseError .illegalCommand s)

/-- OP 7. -/
def execIllegal7 (s : State) : Host.Outcome State Fault Refusal := .next (raiseError .illegalCommand s)

end Sys2Proof.Machine
end

