-- ==== Sys2Proof/Machine/SizeCommands.lean ====
section
/-! DEFINITION. ENC_LEN (40_size_calculator.md R113) and DEC_LEN (R114). -/

namespace Sys2Proof.Machine

open Sys2Proof

/-- ENC_LEN's pseudocode: complete(encoded_length(LLEN)), no memory access (40_size_calculator.md R113). -/
def encLenCommand (s : State) : State := complete (encodedLength s.count) s

/-- ENC_LEN. -/
def execEncLen (s : State) : Host.Outcome State Fault Refusal := whenDefined .encLen encLenCommand s

/-- `sym(i)`: the engine's read of element i of the text (40_size_calculator.md R114). -/
def symbolRead (s : State) (i : Nat) : Option Byte := engineRead s (s.lsrc + BitVec.ofNat 32 i)

/-- DEC_LEN's pseudocode (40_size_calculator.md R114). -/
def decLenCommand (s : State) : State :=
  if s.count % 4 ≠ 0 then failCommand .decLen .invalidLength s
  else if s.count = 0 then complete 0 s
  else
    match symbolRead s (s.count - 1) with
    | none => failCommand .decLen .busError s
    | some c1 =>
      if c1 = padSymbol then
        match symbolRead s (s.count - 2) with
        | none => failCommand .decLen .busError s
        | some c2 => complete (s.count / 4 * 3 - (if c2 = padSymbol then 2 else 1)) s
      else complete (s.count / 4 * 3) s

/-- DEC_LEN. -/
def execDecLen (s : State) : Host.Outcome State Fault Refusal := whenDefined .decLen decLenCommand s

end Sys2Proof.Machine
end

