-- ==== Sys2Proof/Machine/HostAccess.lean ====
section
/-! DEFINITION. What a host action does: register reads and writes (10_state.md R22 to R35), the CMD write (R37, R38), host
loads and stores of system memory (20_memory.md R60, R65, R72), POLL (30_encoding.md R96), reset (70_reset_and_hazards.md
R220, R221). -/

namespace Sys2Proof.Machine

open Sys2Proof

/-! ## The register window -/

/-- The byte offset of a register from BASE (10_state.md R22). -/
def Reg.offset : Reg → Nat
  | .ctrl => 0x00
  | .cmd => 0x04
  | .status => 0x08
  | .errCode => 0x0C
  | .srcAddr => 0x10
  | .srcLen => 0x14
  | .dstAddr => 0x18
  | .result => 0x1C

/-- The register at an offset (10_state.md R22). -/
def Reg.at? (offset : Nat) : Option Reg :=
  [Reg.ctrl, .cmd, .status, .errCode, .srcAddr, .srcLen, .dstAddr, .result].find? fun r => decide (r.offset = offset)

/-- The bus address of a register: BASE + offset (30_encoding.md R96). -/
def State.addrOf (s : State) (r : Reg) : Addr := s.base + BitVec.ofNat 32 r.offset

/-- What a 32-bit read of a register returns: its fields now, reserved bits 0, CMD 0 (10_state.md R22, R23, R25). -/
def readReg (r : Reg) (s : State) : Word :=
  match r with
  | .ctrl => (BitVec.ofBool s.ie).setWidth 32
  | .cmd => 0#32
  | .status => s.statusWord
  | .errCode => s.errCode.setWidth 32
  | .srcAddr => s.srcAddr
  | .srcLen => s.srcLen.setWidth 32
  | .dstAddr => s.dstAddr
  | .result => s.result

/-- A CMD write of `w` accepted by an IDLE engine (10_state.md R37). A legal OP starts: the phase is BUSY, and of a command
that is UNDEFINED with its operands no claim is made from here on (00_scope.md R12, 20_memory.md R69, R71). An illegal OP
runs in the same step. -/
def acceptCommand (w : Word) (s : State) : Turn :=
  if (decodeWord w).legal then
    match undefinedCommand (decodeWord w) (latch w s) with
    | some r => .refused r
    | none => .next (enterBusy (latch w s))
  else .run (decodeWord w) (latch w s)

/-- A CMD write: accepted when IDLE (10_state.md R37), dropped with OVR set when BUSY (R38). -/
def writeCmd (w : Word) (s : State) : Turn :=
  if s.busy then .next (setOverrun s) else acceptCommand w s

/-- A 32-bit write of `w` to a register: a write to an RO register or field has no effect, reserved bits ignore it
(10_state.md R23, R24, R26, R31 to R35). -/
def writeReg (r : Reg) (w : Word) (s : State) : Turn :=
  match r with
  | .ctrl => .next { s with ie := w.getLsbD 0 }
  | .cmd => writeCmd w s
  | .status => .next (writeStatus w s)
  | .errCode => .next s
  | .srcAddr => .next { s with srcAddr := w }
  | .srcLen => .next { s with srcLen := w.setWidth 30 }
  | .dstAddr => .next { s with dstAddr := w }
  | .result => .next s

/-- Where an access stands in the window: its offset from BASE (10_state.md R22). -/
def State.offsetOf (s : State) (a : Addr) : Nat := (a - s.base).toNat

/-- Whether an access of `size` bytes at `a` touches the register window. -/
def State.touchesRegisters (s : State) (a : Addr) (size : Nat) : Bool := s.registerWindow.overlaps ⟨a, size⟩

/-- A write that touches the register window; UNDEFINED unless it is an aligned 32-bit one (10_state.md R23). -/
def registerWrite (a : Addr) (bytes : List Byte) (s : State) : Turn :=
  if registerAccessWellFormed (s.offsetOf a) bytes.length then
    match Reg.at? (s.offsetOf a), bytes with
    | some r, [b0, b1, b2, b3] => writeReg r (wordOfBytes b0 b1 b2 b3) s
    | _, _ => .refused .undefinedRegisterAccess
  else .refused .undefinedRegisterAccess

/-- The host keeps what a read returned (log entry 19). -/
def keepRead (bytes : List Byte) (s : State) : State := { s with reads := bytes :: s.reads }

/-- A read that touches the register window; UNDEFINED unless it is an aligned 32-bit one (10_state.md R23). No read of a
register changes one (R23, R82). -/
def registerRead (a : Addr) (size : Nat) (s : State) : Turn :=
  if registerAccessWellFormed (s.offsetOf a) size then
    match Reg.at? (s.offsetOf a) with
    | some r => .next (keepRead (bytesOfWord (readReg r s)) s)
    | none => .refused .undefinedRegisterAccess
  else .refused .undefinedRegisterAccess

/-! ## System memory, by the host and other agents -/

/-- SW of the executing command; empty while IDLE. -/
def State.runningSrc (s : State) : Window :=
  if s.busy then srcWindow (decodeOp s.lop) s else ⟨s.lsrc, 0⟩

/-- DW of the executing command; empty while IDLE. -/
def State.runningDst (s : State) : Window :=
  if s.busy then dstWindow (decodeOp s.lop) s else ⟨s.ldst, 0⟩

/-- A store to system memory: UNDEFINED while it writes a byte of the executing command's SW or DW (20_memory.md R72). -/
def hostStore (a : Addr) (bytes : List Byte) (s : State) : Turn :=
  if anyOverlaps s.devices ⟨a, bytes.length⟩ then .refused .hostDeviceAccess
  else if s.runningSrc.overlaps ⟨a, bytes.length⟩ || s.runningDst.overlaps ⟨a, bytes.length⟩ then
    .refused .windowWrittenWhileBusy
  else .next { s with mem := writeBytes s.mem a bytes }

/-- The bytes a load from `a` returns, the first of them the `n`-th draw: a byte of DW while BUSY is UNPREDICTABLE at each
read, any other is memory's value (20_memory.md R65, R72, U6; log entry 5). -/
def loadedBytes (s : State) : Nat → Addr → Nat → List Byte
  | _, _, 0 => []
  | n, a, k + 1 =>
    (if s.runningDst.has a then Config.freeByte n else s.memByte a) :: loadedBytes s (n + 1) (a + 1#32) k

/-- A load from system memory. -/
def hostLoad (a : Addr) (size : Nat) (s : State) : Turn :=
  if anyOverlaps s.devices ⟨a, size⟩ then .refused .hostDeviceAccess
  else
    .next
      { keepRead (loadedBytes s s.freeCount a size) s with
        freeCount := if s.runningDst.overlaps ⟨a, size⟩ then s.freeCount + size else s.freeCount }

/-! ## The events -/

/-- A bus write, by whichever requester (60_exceptions.md R203): to the register window where it touches it, else to system
memory (10_state.md R46). -/
def busWrite (a : Addr) (bytes : List Byte) (s : State) : Turn :=
  if s.touchesRegisters a bytes.length then registerWrite a bytes s else hostStore a bytes s

/-- A bus read (10_state.md R46). -/
def busRead (a : Addr) (size : Nat) (s : State) : Turn :=
  if s.touchesRegisters a size then registerRead a size s else hostLoad a size s

/-- One round of POLL: read STATUS; while BUSY reads 1, again (30_encoding.md R96). With no BUSY read left the engine's
fair step comes before the next round (70_reset_and_hazards.md R231; log entry 14). The next round is put first in the
inbox, so no event but that step comes between two reads of one POLL: the spec leaves open what may, and this is the model's
choice (log entry 14, DESIGN CHOICE). A script of explicit STATUS reads has every other order. -/
def pollRound (busyReads : Nat) (s : State) : Turn :=
  let t := keepRead (bytesOfWord s.statusWord) s
  if s.busy then
    match busyReads with
    | 0 => .next { t with inbox := .engine :: .poll 0 :: t.inbox }
    | k + 1 => .next { t with inbox := .poll k :: t.inbox }
  else .next t

/-- The block's own state takes its reset values (70_reset_and_hazards.md R220; the unspecified ones as in State.reset, log
entry 9). Memory, the platform and what is still to come are not the block's. -/
def resetBlock (s : State) : State :=
  { s with
    ie := State.reset.ie
    busy := State.reset.busy
    done := State.reset.done
    ovr := State.reset.ovr
    errCode := State.reset.errCode
    srcAddr := State.reset.srcAddr
    srcLen := State.reset.srcLen
    dstAddr := State.reset.dstAddr
    result := State.reset.result
    lop := State.reset.lop
    lsrc := State.reset.lsrc
    llen := State.reset.llen
    ldst := State.reset.ldst
    work := State.reset.work }

/-- The executing command is cut off: every byte of its DW is UNPREDICTABLE, and writes it had issued may still be
performed later (70_reset_and_hazards.md R221; log entries 4 and 24). -/
def abortCommand (s : State) : State :=
  { scramble s.runningDst s with aborted := s.runningDst :: s.aborted }

/-- Reset; while BUSY it aborts the command, with no completion reported (70_reset_and_hazards.md R221). -/
def assertReset (s : State) : State := resetBlock (if s.busy then abortCommand s else s)

/-- A write issued before a reset is performed: that byte of the aborted command's DW is UNPREDICTABLE again
(70_reset_and_hazards.md R221; log entry 24). Inside SW or DW of an executing command it is the write R72 forbids. -/
def lateWrite (a : Addr) (s : State) : Turn :=
  if anyHas s.aborted a then
    if s.runningSrc.has a || s.runningDst.has a then .refused .windowWrittenWhileBusy
    else .next (scramble ⟨a, 1⟩ s)
  else .next s

/-- The engine's turn: the latched command runs while BUSY (10_state.md R37); an IDLE engine does nothing (R36). -/
def engineTurn (s : State) : Turn :=
  if s.busy then .run (decodeOp s.lop) s else .next s

/-- What an event does. -/
def deliver (e : Event) (s : State) : Turn :=
  match e with
  | .busWrite _ a bytes => busWrite a bytes s
  | .busRead a size => busRead a size s
  | .poll busyReads => pollRound busyReads s
  | .engine => engineTurn s
  | .reset => .next (assertReset s)
  | .lateWrite a => lateWrite a s
  | .interconnect noRead noWrite => .next { s with noRead := noRead, noWrite := noWrite }

/-- The next turn: the oldest event, or the engine's own where nothing else is to come (log entry 1). -/
def turn (s : State) : Turn :=
  match s.inbox with
  | [] => engineTurn s
  | e :: rest => deliver e { s with inbox := rest }

/-- The command of word `w` placed so that it runs next (log entry 13): a legal OP as its accepted start leaves the block
(10_state.md R37) with the engine's turn first; an illegal OP, which runs in the step of its CMD write, as that write. -/
def placeCommand (w : Word) (s : State) : State :=
  if (decodeWord w).legal then { enterBusy (latch w s) with inbox := .engine :: s.inbox }
  else { s with busy := false, inbox := .busWrite .host (s.addrOf .cmd) (bytesOfWord w) :: s.inbox }

end Sys2Proof.Machine
end

