-- ==== Sys2Proof/Machine/Datapath.lean ====
section
/-! DEFINITION. The block-parallel datapath (43_block_datapath.md, information by 00_scope.md R6), so that its equivalence
to the scalar rules (R180) can be stated. No command's meaning uses it: "A model implements the scalar rules and nothing
else" (R180). -/

namespace Sys2Proof.Machine

open Sys2Proof

/-- The range-based translate: an offset per value range, added mod 256 (43_block_datapath.md R182). -/
def rangeTranslate (v : Sextet) : Byte :=
  v.setWidth 8 +
    (if v < 26#6 then 0x41#8
     else if v < 52#6 then 0x47#8
     else if v < 62#6 then 0xFC#8
     else if v = 62#6 then 0xED#8
     else 0xF0#8)

/-- The 24 bits of a full group, first byte most significant (41_encode.md R133). -/
def groupBits (b0 b1 b2 : Byte) : BitVec (8 + 8 + 8) := b0 ++ b1 ++ b2

/-- An encode block step: every group's reshuffle G[23:18], G[17:12], G[11:6], G[5:0] and translate (41_encode.md R133,
43_block_datapath.md R182). -/
def encodeBlock : List Byte → List Byte
  | b0 :: b1 :: b2 :: rest =>
    [rangeTranslate ((groupBits b0 b1 b2).extractLsb' 18 6), rangeTranslate ((groupBits b0 b1 b2).extractLsb' 12 6),
     rangeTranslate ((groupBits b0 b1 b2).extractLsb' 6 6), rangeTranslate ((groupBits b0 b1 b2).extractLsb' 0 6)]
      ++ encodeBlock rest
  | _ => []

/-- Encode with at most `fuel` block steps of `groups` groups; only whole blocks go through the block step, the rest through
the scalar rules (43_block_datapath.md R184). -/
def encodeBlocks (groups : Nat) : Nat → List Byte → List Byte
  | 0, b => encodeBytes b
  | fuel + 1, b =>
    if groups ≠ 0 ∧ 3 * groups ≤ b.length then
      encodeBlock (b.take (3 * groups)) ++ encodeBlocks groups fuel (b.drop (3 * groups))
    else encodeBytes b

/-- Decode classify: the values of a block, or none where a byte is not of the alphabet and the block is rejected; a block
with `=` is rejected too (43_block_datapath.md R183, R185). -/
def classifyBlock : List Byte → Option (List Sextet)
  | [] => some []
  | b :: rest =>
    match decodeTable b with
    | .val v =>
      match classifyBlock rest with
      | some vs => some (v :: vs)
      | none => none
    | .pad => none
    | .invalid => none

/-- The inverse reshuffle: G24[23:16], G24[15:8], G24[7:0] of every group (42_decode.md R153). -/
def packBlock : List Sextet → List Byte
  | v0 :: v1 :: v2 :: v3 :: rest =>
    [(v0 ++ v1 ++ v2 ++ v3).extractLsb' 16 8, (v0 ++ v1 ++ v2 ++ v3).extractLsb' 8 8,
     (v0 ++ v1 ++ v2 ++ v3).extractLsb' 0 8] ++ packBlock rest
  | _ => []

/-- The scalar rules on the symbols from index i to the end of a text of `groups` groups (42_decode.md R150). -/
def scalarDecodeFrom (groups i : Nat) (t : List Byte) : Answer (List Byte) :=
  match symbolErrors groups i none (t.map fun b => some (decodeTable b)) with
  | e :: _ => .err e
  | [] => .ok (packGroups (t.map decodeTable))

/-- Bytes put before those of an answer. -/
def Answer.prepend (front : List Byte) : Answer (List Byte) → Answer (List Byte)
  | .ok bytes => .ok (front ++ bytes)
  | .err kind => .err kind

/-- Decode with at most `fuel` block steps of `blockGroups` groups, from index i: a block before the final group goes through
the block step, or through the scalar rules where it is rejected; the rest goes through the scalar rules
(43_block_datapath.md R183, R184, R185). -/
def decodeBlocksFrom (groups blockGroups : Nat) : Nat → Nat → List Byte → Answer (List Byte)
  | 0, i, t => scalarDecodeFrom groups i t
  | fuel + 1, i, t =>
    if blockGroups ≠ 0 ∧ 4 * blockGroups < t.length then
      match classifyBlock (t.take (4 * blockGroups)) with
      | some vs =>
        Answer.prepend (packBlock vs)
          (decodeBlocksFrom groups blockGroups fuel (i + 4 * blockGroups) (t.drop (4 * blockGroups)))
      | none =>
        match scalarDecodeFrom groups i (t.take (4 * blockGroups)) with
        | .err kind => .err kind
        | .ok front =>
          Answer.prepend front
            (decodeBlocksFrom groups blockGroups fuel (i + 4 * blockGroups) (t.drop (4 * blockGroups)))
    else scalarDecodeFrom groups i t

/-- Decode through the datapath: the length first (42_decode.md R150), then the blocks. -/
def decodeBlocks (blockGroups fuel : Nat) (t : List Byte) : Answer (List Byte) :=
  if t.length % 4 ≠ 0 then .err .invalidLength else decodeBlocksFrom (t.length / 4) blockGroups fuel 0 t

end Sys2Proof.Machine
end

