-- ==== Sys2Proof/Machine/Script.lean ====
section
/-! DEFINITION. The host-script notation (30_encoding.md R96) and its pseudo-commands (R97), as events of `inbox`. -/

namespace Sys2Proof.Machine

open Sys2Proof

/-- A host step of a script (30_encoding.md R96); a MEM line is a description of memory and no step. -/
inductive HostLine where
  /-- `W <REG>, <value>` -/
  | write (r : Reg) (value : Word)
  /-- `R <REG> -> <name>` -/
  | read (r : Reg)
  /-- `POLL`, with the number of BUSY reads before the engine's step (log entry 14) -/
  | poll (busyReads : Nat)
deriving DecidableEq, Repr

/-- The pseudo-commands (30_encoding.md R97). -/
inductive Pseudo where
  | encode (src len dst : Word)
  | decode (src len dst : Word)
  | encLen (len : Word)
  | decLen (src len : Word)
  | ack
  | ackOvr
  | irqOn
  | irqOff
deriving DecidableEq, Repr

/-- The W lines a pseudo-command expands to, in order (30_encoding.md R97). -/
def Pseudo.expand : Pseudo → List HostLine
  | .encode src len dst => [.write .srcAddr src, .write .srcLen len, .write .dstAddr dst, .write .cmd 0x1#32]
  | .decode src len dst => [.write .srcAddr src, .write .srcLen len, .write .dstAddr dst, .write .cmd 0x2#32]
  | .encLen len => [.write .srcLen len, .write .cmd 0x3#32]
  | .decLen src len => [.write .srcAddr src, .write .srcLen len, .write .cmd 0x4#32]
  | .ack => [.write .status 0x2#32]
  | .ackOvr => [.write .status 0x8#32]
  | .irqOn => [.write .ctrl 0x1#32]
  | .irqOff => [.write .ctrl 0x0#32]

/-- The bus access of a script line (30_encoding.md R96). -/
def HostLine.event (s : State) : HostLine → Event
  | .write r value => .busWrite .host (s.addrOf r) (bytesOfWord value)
  | .read r => .busRead (s.addrOf r) 4
  | .poll busyReads => .poll busyReads

/-- The state with a script placed after what is already to come. -/
def State.withScript (s : State) (lines : List HostLine) : State :=
  { s with inbox := s.inbox ++ lines.map (HostLine.event s) }

/-- Whether an event is a step of the host program, a line of it or what is left of a POLL (30_encoding.md R96). R96's lines
access registers only; that the host's own loads and stores of system memory count as steps of its program too is the
model's choice (log entry 25, DESIGN CHOICE). -/
def Event.isHostLine : Event → Bool
  | .busWrite .host _ _ => true
  | .busWrite .other _ _ => false
  | .busRead _ _ => true
  | .poll _ => true
  | .engine => false
  | .reset => false
  | .lateWrite _ => false
  | .interconnect _ _ => false

/-- A host program has ended when its last line has executed, whether or not a command still executes and whatever other
agents have to come (70_reset_and_hazards.md R232). The host's memory accesses count as lines (log entry 25). -/
def State.ended (s : State) : Bool := !s.inbox.any Event.isHostLine

/-- A command has ended exactly when BUSY is 0 after its accepted start (70_reset_and_hazards.md R232). -/
def State.commandEnded (s : State) : Bool := !s.busy

end Sys2Proof.Machine
end

