-- ==== Sys2Proof/Safety.lean ====
section
/-! DEFINITION. The terms claims are made in: what the host can see, the invariant every step keeps, the conditions under
which a command's accesses succeed. -/

namespace Sys2Proof.Machine

open Sys2Proof

/-! ## Addresses of a sequence -/

/-- The address of element i of a sequence at `a` (20_memory.md R61). -/
def elementAddr (a : Addr) (i : Nat) : Addr := a + BitVec.ofNat 32 i

/-- The bytes memory holds at the n addresses from `a`. -/
def State.bytesAt (s : State) (a : Addr) (n : Nat) : List Byte :=
  (List.range n).map fun i => s.memByte (elementAddr a i)

/-- `s` with an event that comes next. -/
def State.withEvent (e : Event) (s : State) : State := { s with inbox := e :: s.inbox }

/-- `s` with a host write of `w` to register `r` coming next (30_encoding.md R96). -/
def State.withWrite (r : Reg) (w : Word) (s : State) : State := s.withEvent ((HostLine.write r w).event s)

/-- `s` with a host read of register `r` coming next (30_encoding.md R96). -/
def State.withRead (r : Reg) (s : State) : State := s.withEvent ((HostLine.read r).event s)

/-! ## The errors of a text, by index -/

/-- Lines (a) to (d) of SymbolError for the symbol at index i of the text, as 42_decode.md R151 and R152 write them: the
class of the symbol, its position i mod 4 in the group, its group i / 4, the final group, and the symbol before it. -/
def errorAt (t : List Byte) (i : Nat) : Option ErrorKind :=
  match t[i]? with
  | none => none
  | some b =>
    if decodeTable b = .invalid then some .invalidCharacter
    else if decodeTable b = .pad ∧ (i % 4 = 0 ∨ i % 4 = 1) then some .invalidPadding
    else if decodeTable b = .pad ∧ i / 4 ≠ t.length / 4 - 1 then some .invalidPadding
    else if decodeTable b ≠ .pad ∧ i % 4 = 3 ∧ t[i - 1]?.map decodeTable = some .pad then some .invalidPadding
    else none

/-! ## When a command is defined and its accesses succeed -/

/-- SW and DW share no address and hold none with side effects (20_memory.md R69, R71). -/
abbrev WindowsDefined (i : Instr) (s : State) : Prop := undefinedCommand i s = none

/-- The interconnect refuses no read of the n addresses from `a` (20_memory.md R70). -/
abbrev ReadsAnswered (s : State) (a : Addr) (n : Nat) : Prop :=
  ∀ j, j < n → anyHas s.noRead (elementAddr a j) = false

/-- The interconnect refuses no write of the n addresses from `a` (20_memory.md R70). -/
abbrev WritesAnswered (s : State) (a : Addr) (n : Nat) : Prop :=
  ∀ j, j < n → anyHas s.noWrite (elementAddr a j) = false

/-- Every byte outside the window reads in `t` as in `s`. -/
def SameOutside (w : Window) (s t : State) : Prop :=
  ∀ a, w.has a = false → t.memByte a = s.memByte a

/-- Every byte of memory reads in `t` as in `s`. -/
def SameMemory (s t : State) : Prop := ∀ a, t.memByte a = s.memByte a

/-- What no command changes: CTRL, OVR, the operand registers, the latched operands, BASE and the platform, what is still
to come and what the host has read. -/
def SameBesidesResult (s t : State) : Prop :=
  t.ie = s.ie ∧ t.ovr = s.ovr ∧ t.srcAddr = s.srcAddr ∧ t.srcLen = s.srcLen ∧ t.dstAddr = s.dstAddr ∧
    t.lop = s.lop ∧ t.lsrc = s.lsrc ∧ t.llen = s.llen ∧ t.ldst = s.ldst ∧
    t.base = s.base ∧ t.devices = s.devices ∧ t.noRead = s.noRead ∧ t.noWrite = s.noWrite ∧
    t.aborted = s.aborted ∧ t.inbox = s.inbox ∧ t.reads = s.reads

/-- A successful completion with count `n` (10_state.md R36). -/
def Completed (n : Nat) (t : State) : Prop :=
  t.result = BitVec.ofNat 32 n ∧ t.errCode = 0#4 ∧ t.done = true ∧ t.busy = false

/-- A completion with an error (60_exceptions.md R191). -/
def Failed (kind : ErrorKind) (t : State) : Prop :=
  t.result = 0#32 ∧ t.errCode = kind.code ∧ t.done = true ∧ t.busy = false

/-! ## The invariant -/

/-- The error codes the block produces, 0 for none (60_exceptions.md R190, R197). -/
def legalErrorCode (c : BitVec 4) : Bool :=
  c == 0#4 || c == 1#4 || c == 2#4 || c == 3#4 || c == 5#4 || c == 6#4

/-- What holds at reset and after every step. While BUSY, DONE, ERR_CODE and RESULT are 0 and LOP is a legal OP
(10_state.md R31, R35, R37); ERR_CODE never takes a reserved code (60_exceptions.md R197); after an error RESULT is 0
(R191); memory is in its canonical form. -/
structure Inv (s : State) : Prop where
  memory : Memory.wf s.mem = true
  codes : legalErrorCode s.errCode = true
  failedCount : s.errCode ≠ 0#4 → s.result = 0#32
  busyDone : s.busy = true → s.done = false
  busyCode : s.busy = true → s.errCode = 0#4
  busyResult : s.busy = true → s.result = 0#32
  busyLegal : s.busy = true → (decodeOp s.lop).legal = true

/-! ## What the host cannot see -/

/-- The states differ at most in the engine's working state (10_state.md R43) and, while IDLE, in the latched operands
(R39). -/
structure SameToHost (s t : State) : Prop where
  ie : s.ie = t.ie
  busy : s.busy = t.busy
  done : s.done = t.done
  ovr : s.ovr = t.ovr
  errCode : s.errCode = t.errCode
  srcAddr : s.srcAddr = t.srcAddr
  srcLen : s.srcLen = t.srcLen
  dstAddr : s.dstAddr = t.dstAddr
  result : s.result = t.result
  mem : s.mem = t.mem
  base : s.base = t.base
  devices : s.devices = t.devices
  noRead : s.noRead = t.noRead
  noWrite : s.noWrite = t.noWrite
  aborted : s.aborted = t.aborted
  inbox : s.inbox = t.inbox
  reads : s.reads = t.reads
  freeCount : s.freeCount = t.freeCount
  operands : s.busy = true → s.lop = t.lop ∧ s.lsrc = t.lsrc ∧ s.llen = t.llen ∧ s.ldst = t.ldst

/-- Two outcomes the host cannot tell apart. -/
def SameOutcome : Host.Outcome State Fault Refusal → Host.Outcome State Fault Refusal → Prop
  | .next s, .next t => SameToHost s t
  | .refused r, .refused q => r = q
  | .fault r, .fault q => r = q
  | _, _ => False

end Sys2Proof.Machine
end

