-- ==== Sys2Proof/Certificates/Slice0/Obligations.lean ====
section
/-! DEFINITION. The statements for the provers, from the numbered rules of spec/. -/

open Sys2Proof Sys2Proof.Machine

/-! ## Encoding -/

/-- 30_encoding.md R92: a few command words, written out from the opcode map, with and without ignored bits. -/
def Obligations.CommandWordsDecode : Prop :=
  decodeWord 0b00000000000000000000000000000001#32 = .encode ∧
  decodeWord 0b11111111111111111111111111111001#32 = .encode ∧
  decodeWord 0b00000000000000000000000000000010#32 = .decode ∧
  decodeWord 0b00000000000000000000000000000011#32 = .encLen ∧
  decodeWord 0b00000000000000000000000000000100#32 = .decLen ∧
  decodeWord 0b00000000000000000000000000000000#32 = .illegal0 ∧
  decodeWord 0b00000000000000000000000000001000#32 = .illegal0 ∧
  decodeWord 0b00000000000000000000000000000101#32 = .illegal5 ∧
  decodeWord 0b00000000000000000000000000000110#32 = .illegal6 ∧
  decodeWord 0b00000000000000000000000000000111#32 = .illegal7

/-- 30_encoding.md R91, R95: every word of every row, with any ignored bits and whatever follows it on the bus, decodes to
the row's command, and so does what the encoder writes. -/
def Obligations.DecodeOfEncodeIsTheCommand : Prop :=
  ∀ (i : Instr) (ignored : BitVec 29) (rest : List Byte), i.wellFormed = true →
    decodeBytes (bytesOfWord (commandWord ignored i) ++ rest) = .command i rest ∧
    decodeBytes (encodeBus i ++ rest) = .command i rest ∧
    decodeTableWord 32 (commandWord ignored i).toNat = some i ∧
    canonicalCommandWord (encode i) = true

/-- 30_encoding.md R94, last sentence: two command words with the same OP have the same effect in every state. -/
def Obligations.IgnoredBitsChangeNothing : Prop :=
  ∀ (s : State) (v w : Word), commandOp v = commandOp w → step (s.withWrite .cmd v) = step (s.withWrite .cmd w)

/-- A step runs the decoded command: the engine's turn while BUSY runs the latched one (10_state.md R37), an illegal word
written while IDLE runs in the same step (R37). That a word placed by withFetchWord runs next, with these operands, is the
model's own convention of placing a command (log entry 13, DESIGN CHOICE): clauses 4 and 5. -/
def Obligations.StepRunsTheDecodedCommand : Prop :=
  (∀ s : State, s.busy = true → s.inbox = [] → step s = exec (decodeOp s.lop) s) ∧
  (∀ s : State, s.busy = true → step (s.withEvent .engine) = exec (decodeOp s.lop) s) ∧
  (∀ (s : State) (w : Word), s.busy = false → (decodeWord w).legal = false →
    step (s.withWrite .cmd w) = exec (decodeWord w) (latch w s)) ∧
  (∀ (s : State) (w : Word), (decodeWord w).legal = true →
    step (s.withFetchWord 32 w.toNat) = exec (decodeWord w) (enterBusy (latch w s))) ∧
  (∀ (s : State) (w : Word), (decodeWord w).legal = false →
    step (s.withFetchWord 32 w.toNat) = exec (decodeWord w) (latch w { s with busy := false }))

/-! ## Reset -/

/-- 70_reset_and_hazards.md R220: every register reads 0, the engine is IDLE and IRQ is deasserted, in the reset state and
after a reset in any state. -/
def Obligations.ResetClearsTheRegisterWindow : Prop :=
  (∀ r, readReg r State.reset = 0#32) ∧ State.reset.busy = false ∧ State.reset.irq = false ∧
  ∀ s : State, ∃ t, step (s.withEvent .reset) = .next t ∧ (∀ r, readReg r t = 0#32) ∧ t.busy = false ∧ t.irq = false

/-- 70_reset_and_hazards.md R221: a reset while BUSY reports no completion and touches no byte outside the aborted command's
DW; a reset while IDLE touches no byte. -/
def Obligations.ResetWhileBusyAborts : Prop :=
  ∀ s : State, ∃ t, step (s.withEvent .reset) = .next t ∧ t.done = false ∧ t.irq = false ∧
    (s.busy = true → SameOutside (dstWindow (decodeOp s.lop) s) s t) ∧
    (s.busy = false → SameMemory s t)

/-! ## The register window -/

/-- What a 32-bit read of each register returns, as a number (10_state.md R22 to R26, R29, R31 to R35). -/
def Obligations.RegisterReadsReturnTheFields : Prop :=
  ∀ (s : State) (r : Reg), ∃ v : Word,
    step (s.withRead r) = .next { s with reads := bytesOfWord v :: s.reads } ∧
    v.toNat =
      match r with
      | .ctrl => s.ie.toNat
      | .cmd => 0
      | .status => s.busy.toNat + 2 * s.done.toNat + 4 * (if s.errCode = 0#4 then 0 else 1) + 8 * s.ovr.toNat
      | .errCode => s.errCode.toNat
      | .srcAddr => s.srcAddr.toNat
      | .srcLen => s.srcLen.toNat
      | .dstAddr => s.dstAddr.toNat
      | .result => s.result.toNat

/-- What a 32-bit write of `w` does to each register but CMD: only the writable fields change, DONE and OVR are cleared by
a 1, and nothing else of the state changes (10_state.md R23, R24, R26, R32 to R35). -/
def Obligations.RegisterWritesChangeOnlyWritableFields : Prop :=
  ∀ (s : State) (w : Word),
    step (s.withWrite .ctrl w) = .next { s with ie := w.getLsbD 0 } ∧
    step (s.withWrite .status w) =
      .next { s with done := s.done && !w.getLsbD 1, ovr := s.ovr && !w.getLsbD 3 } ∧
    step (s.withWrite .errCode w) = .next s ∧
    step (s.withWrite .srcAddr w) = .next { s with srcAddr := w } ∧
    step (s.withWrite .srcLen w) = .next { s with srcLen := BitVec.ofNat 30 (w.toNat % 2 ^ 30) } ∧
    step (s.withWrite .dstAddr w) = .next { s with dstAddr := w } ∧
    step (s.withWrite .result w) = .next s

/-- 70_reset_and_hazards.md R230: an access that touches the register window and is not 32 bits wide, or not at a multiple
of 4, is refused, written or read. -/
def Obligations.OtherRegisterAccessesAreRefused : Prop :=
  ∀ (s : State) (q : Requester) (a : Addr) (bytes : List Byte) (size : Nat),
    (∃ j, j < size ∧ s.registerWindow.has (elementAddr a j) = true) → bytes.length = size →
    (size ≠ 4 ∨ (s.offsetOf a) % 4 ≠ 0) →
    step (s.withEvent (.busWrite q a bytes)) = .refused .undefinedRegisterAccess ∧
    step (s.withEvent (.busRead a size)) = .refused .undefinedRegisterAccess

/-! ## The CMD write -/

/-- 10_state.md R37, the start of a legal command: the operands are latched, DONE, ERR_CODE and RESULT cleared, BUSY set,
and nothing else changes. -/
def Obligations.AcceptedStartLatchesTheOperands : Prop :=
  ∀ (s : State) (w : Word), s.busy = false → (decodeWord w).legal = true → WindowsDefined (decodeWord w) (latch w s) →
    step (s.withWrite .cmd w) =
      .next
        { s with
          lop := w.extractLsb' 0 3, lsrc := s.srcAddr, llen := s.srcLen, ldst := s.dstAddr,
          done := false, errCode := 0#4, result := 0#32, busy := true }

/-- 30_encoding.md R94, 10_state.md R37: an illegal OP written while IDLE ends in the same step with IllegalCommand: DONE 1,
BUSY 0, ERR_CODE 6, RESULT 0, no byte of memory touched, OVR kept. -/
def Obligations.IllegalOpcodeCompletesAtOnce : Prop :=
  ∀ (s : State) (w : Word), s.busy = false →
    (w.extractLsb' 0 3 = 0#3 ∨ w.extractLsb' 0 3 = 5#3 ∨ w.extractLsb' 0 3 = 6#3 ∨ w.extractLsb' 0 3 = 7#3) →
    step (s.withWrite .cmd w) =
      .next
        { s with
          lop := w.extractLsb' 0 3, lsrc := s.srcAddr, llen := s.srcLen, ldst := s.dstAddr,
          done := true, errCode := 6#4, result := 0#32 }

/-- 10_state.md R38: a CMD write while BUSY only sets OVR. -/
def Obligations.CommandWrittenWhileBusyIsDropped : Prop :=
  ∀ (s : State) (w : Word), s.busy = true → step (s.withWrite .cmd w) = .next { s with ovr := true }

/-- 20_memory.md R71: a command whose SW and DW share an address is refused. That the refusal comes when the command would
start, and again when it would run, and that it names the overlap where a side-effect address is in a window too, is the
model's choice (log entry 11, DESIGN CHOICE). -/
def Obligations.OverlappingBuffersAreRefused : Prop :=
  ∀ (s : State) (i : Instr),
    (∀ a, (srcWindow i s).has a = true → (dstWindow i s).has a = true → exec i s = .refused .overlappingWindows) ∧
    (∀ (w : Word) (a : Addr), s.busy = false → decodeWord w = i →
      (srcWindow i (latch w s)).has a = true → (dstWindow i (latch w s)).has a = true →
      step (s.withWrite .cmd w) = .refused .overlappingWindows)

/-- 20_memory.md R69: a command whose windows are disjoint and one of which holds a device address, or an address of the
block's own register window, is refused. That the refusal comes when the command would start, and again when it would run,
is the model's choice (log entry 11, DESIGN CHOICE). -/
def Obligations.SideEffectWindowsAreRefused : Prop :=
  ∀ (s : State) (i : Instr) (a : Addr), (anyHas s.devices a = true ∨ s.registerWindow.has a = true) →
    ((∀ b, (srcWindow i s).has b = true → (dstWindow i s).has b = false) →
      ((srcWindow i s).has a = true ∨ (dstWindow i s).has a = true) → exec i s = .refused .sideEffectWindow) ∧
    (∀ w : Word, s.busy = false → decodeWord w = i →
      (∀ b, (srcWindow i (latch w s)).has b = true → (dstWindow i (latch w s)).has b = false) →
      ((srcWindow i (latch w s)).has a = true ∨ (dstWindow i (latch w s)).has a = true) →
      step (s.withWrite .cmd w) = .refused .sideEffectWindow)

/-! ## The windows -/

/-- 20_memory.md R62: the source window of each command, as the rule writes the sets. -/
def Obligations.SourceWindowIsTheRulesSet : Prop :=
  ∀ (s : State) (a : Addr),
    ((srcWindow .encode s).has a = true ↔ ∃ j, j < s.llen.toNat ∧ a = elementAddr s.lsrc j) ∧
    ((srcWindow .decode s).has a = true ↔
      s.llen.toNat % 4 = 0 ∧ ∃ j, j < s.llen.toNat ∧ a = elementAddr s.lsrc j) ∧
    ((srcWindow .decLen s).has a = true ↔
      s.llen.toNat % 4 = 0 ∧ 0 < s.llen.toNat ∧
        (a = elementAddr s.lsrc (s.llen.toNat - 1) ∨ a = elementAddr s.lsrc (s.llen.toNat - 2))) ∧
    (srcWindow .encLen s).has a = false ∧
    (srcWindow .illegal0 s).has a = false ∧ (srcWindow .illegal5 s).has a = false ∧
    (srcWindow .illegal6 s).has a = false ∧ (srcWindow .illegal7 s).has a = false

/-- 20_memory.md R63: the destination window of each command, as the rule writes the sets; no window wraps onto itself. -/
def Obligations.DestinationWindowIsTheRulesSet : Prop :=
  ∀ (s : State) (a : Addr),
    ((dstWindow .encode s).has a = true ↔ ∃ j, j < encodedLength s.llen.toNat ∧ a = elementAddr s.ldst j) ∧
    ((dstWindow .decode s).has a = true ↔
      s.llen.toNat % 4 = 0 ∧ ∃ j, j < 3 * (s.llen.toNat / 4) ∧ a = elementAddr s.ldst j) ∧
    (dstWindow .encLen s).has a = false ∧ (dstWindow .decLen s).has a = false ∧
    (dstWindow .illegal0 s).has a = false ∧ (dstWindow .illegal5 s).has a = false ∧
    (dstWindow .illegal6 s).has a = false ∧ (dstWindow .illegal7 s).has a = false ∧
    ∀ i, (srcWindow i s).len < 2 ^ 32 ∧ (dstWindow i s).len < 2 ^ 32

/-- 20_memory.md R61, R66: element i of a sequence stands at (a + i) mod 2^32. -/
def Obligations.ElementAddressesWrap : Prop :=
  ∀ (a : Addr) (i : Nat), (elementAddr a i).toNat = (a.toNat + i) % 2 ^ 32

/-! ## The size calculator -/

/-- 40_size_calculator.md R110: encoded_length below 2^30, the three forms of it agree, with every form exact in 32-bit
arithmetic, and the largest result is 0x55555554. -/
def Obligations.EncodedLengthFormsAgree : Prop :=
  (∀ n, n < 2 ^ 30 →
    encodedLength n = 4 * ((n + 2) / 3) ∧
    encodedLength n = ((4 * n + 2) / 3 + 3) / 4 * 4 ∧
    encodedLength n = (BitVec.ofNat 32 (4 * n / 3 + 3) &&& ~~~(3#32)).toNat ∧
    4 * n + 2 ≤ 2 ^ 32 - 2 ∧ encodedLength n ≤ 0x55555554) ∧
  encodedLength (2 ^ 30 - 1) = 0x55555554

/-- 40_size_calculator.md R113: ENC_LEN completes in every state with encoded_length(LLEN), never fails, and changes
nothing but the completion registers. -/
def Obligations.EncLenCompletesWithEncodedLength : Prop :=
  ∀ s : State, ∃ t, exec .encLen s = .next t ∧ Completed (4 * ((s.llen.toNat + 2) / 3)) t ∧
    t.result.toNat = 4 * ((s.llen.toNat + 2) / 3) ∧ SameMemory s t ∧ SameBesidesResult s t

/-- 40_size_calculator.md R114, line by line: where DEC_LEN completes and with which count, and where it ends with
InvalidLength or BusError; it changes no byte and nothing but the completion registers. -/
def Obligations.DecLenFollowsItsPseudocode : Prop :=
  ∀ s : State, WindowsDefined .decLen s →
    ∃ t, exec .decLen s = .next t ∧ SameMemory s t ∧ SameBesidesResult s t ∧
      (s.llen.toNat % 4 ≠ 0 → Failed .invalidLength t) ∧
      (s.llen.toNat = 0 → Completed 0 t) ∧
      (s.llen.toNat % 4 = 0 → 0 < s.llen.toNat →
        (anyHas s.noRead (elementAddr s.lsrc (s.llen.toNat - 1)) = true → Failed .busError t) ∧
        (anyHas s.noRead (elementAddr s.lsrc (s.llen.toNat - 1)) = false →
          (s.memByte (elementAddr s.lsrc (s.llen.toNat - 1)) ≠ 0x3D#8 → Completed (s.llen.toNat / 4 * 3) t) ∧
          (s.memByte (elementAddr s.lsrc (s.llen.toNat - 1)) = 0x3D#8 →
            (anyHas s.noRead (elementAddr s.lsrc (s.llen.toNat - 2)) = true → Failed .busError t) ∧
            (anyHas s.noRead (elementAddr s.lsrc (s.llen.toNat - 2)) = false →
              (s.memByte (elementAddr s.lsrc (s.llen.toNat - 2)) ≠ 0x3D#8 → Completed (s.llen.toNat / 4 * 3 - 1) t) ∧
              (s.memByte (elementAddr s.lsrc (s.llen.toNat - 2)) = 0x3D#8 →
                Completed (s.llen.toNat / 4 * 3 - 2) t)))))

/-- 40_size_calculator.md R114, "With no bus error, this computes decoded_length(t, LLEN)" for the whole text t at LSRC. -/
def Obligations.DecLenComputesDecodedLength : Prop :=
  ∀ s : State, WindowsDefined .decLen s → ReadsAnswered s s.lsrc s.llen.toNat →
    ∃ t, exec .decLen s = .next t ∧
      match decodedLength (s.bytesAt s.lsrc s.llen.toNat) with
      | .ok n => Completed n t ∧ t.result.toNat = n
      | .err kind => Failed kind t

/-- 40_size_calculator.md R112: decoded_length of an encoding is the length of what was encoded. -/
def Obligations.DecodedLengthOfEncodingIsTheLength : Prop :=
  ∀ b : List Byte, b.length < 2 ^ 30 →
    (encodeBytes b).length = encodedLength b.length ∧ decodedLength (encodeBytes b) = .ok b.length

/-! ## Encode -/

/-- 41_encode.md R134, success: with ordinary, disjoint windows and no bus refusal ENCODE completes with
encoded_length(LLEN), the text of the source bytes stands at LDST, and nothing else changes, no other byte among it. -/
def Obligations.EncodeWritesTheText : Prop :=
  ∀ s : State, WindowsDefined .encode s → ReadsAnswered s s.lsrc s.llen.toNat →
    WritesAnswered s s.ldst (encodedLength s.llen.toNat) →
    ∃ t, exec .encode s = .next t ∧ Completed (encodedLength s.llen.toNat) t ∧
      t.result.toNat = encodedLength s.llen.toNat ∧
      t.bytesAt s.ldst (encodedLength s.llen.toNat) = encodeBytes (s.bytesAt s.lsrc s.llen.toNat) ∧
      SameOutside (dstWindow .encode s) s t ∧ SameBesidesResult s t

/-- 41_encode.md R134 with 20_memory.md R70 and 60_exceptions.md R195: a refused read or write ends ENCODE with BusError,
and no byte outside DW changes. -/
def Obligations.EncodeReportsBusErrors : Prop :=
  ∀ (s : State) (j : Nat), WindowsDefined .encode s →
    ((j < s.llen.toNat ∧ anyHas s.noRead (elementAddr s.lsrc j) = true) ∨
      (j < encodedLength s.llen.toNat ∧ anyHas s.noWrite (elementAddr s.ldst j) = true)) →
    ∃ t, exec .encode s = .next t ∧ Failed .busError t ∧
      SameOutside (dstWindow .encode s) s t ∧ SameBesidesResult s t

/-- 41_encode.md R135: ENCODE ends with no error but BusError. -/
def Obligations.EncodeRaisesNoDataError : Prop :=
  ∀ s t : State, exec .encode s = .next t → t.errCode = 0#4 ∨ t.errCode = ErrorKind.code .busError

/-- 41_encode.md R136: the trailing `=` of an encoding by the length modulo 3. -/
def Obligations.EncodingPadsByLength : Prop :=
  ∀ b : List Byte,
    (b.length % 3 = 0 → (encodeBytes b).getLast? ≠ some 0x3D#8) ∧
    (b.length % 3 = 1 → ∃ front c, encodeBytes b = front ++ [c, 0x3D#8, 0x3D#8] ∧ c ≠ 0x3D#8) ∧
    (b.length % 3 = 2 → ∃ front c, encodeBytes b = front ++ [c, 0x3D#8] ∧ c ≠ 0x3D#8)

/-- 41_encode.md R137: every symbol before the trailing `=` is one of the 64 of EncodeTable, and the length is
encoded_length(|b|). -/
def Obligations.EncodingHasTheBase64Shape : Prop :=
  ∀ b : List Byte, ∃ (values : List Sextet) (pads : Nat),
    encodeBytes b = values.map encodeTable ++ List.replicate pads 0x3D#8 ∧
    pads = (3 - b.length % 3) % 3 ∧ (encodeBytes b).length = encodedLength b.length

/-- 41_encode.md R138: EncodeBytes is injective. -/
def Obligations.EncodingIsInjective : Prop :=
  ∀ b c : List Byte, encodeBytes b = encodeBytes c → b = c

/-- 41_encode.md R133: the four values of a full group are the slices G[23:18], G[17:12], G[11:6], G[5:0] of the 24-bit
group, and a tail is a group whose missing bytes are 0. -/
def Obligations.GroupValuesAreSlicesOfTheGroup : Prop :=
  ∀ b0 b1 b2 : Byte,
    sextet0 b0 = (b0 ++ b1 ++ b2).extractLsb' 18 6 ∧
    sextet1 b0 b1 = (b0 ++ b1 ++ b2).extractLsb' 12 6 ∧
    sextet2 b1 b2 = (b0 ++ b1 ++ b2).extractLsb' 6 6 ∧
    sextet3 b2 = (b0 ++ b1 ++ b2).extractLsb' 0 6 ∧
    tail1 b0 = [encodeTable (sextet0 b0), encodeTable (sextet1 b0 0#8), 0x3D#8, 0x3D#8] ∧
    tail2 b0 b1 = [encodeTable (sextet0 b0), encodeTable (sextet1 b0 b1), encodeTable (sextet2 b1 0#8), 0x3D#8]

/-! ## The tables -/

/-- 10_state.md R41, over R40's table: the DecodeTable inverts the EncodeTable, `=` is PAD and no symbol of the EncodeTable,
and every other byte is INVALID. -/
def Obligations.DecodeTableInvertsEncodeTable : Prop :=
  (∀ v : Sextet,
    (encodeTable v).toNat =
      if v.toNat < 26 then 0x41 + v.toNat
      else if v.toNat < 52 then v.toNat + 0x47
      else if v.toNat < 62 then v.toNat - 4
      else if v.toNat = 62 then 0x2B
      else 0x2F) ∧
  (∀ v : Sextet, decodeTable (encodeTable v) = .val v) ∧
  (∀ (b : Byte) (v : Sextet), decodeTable b = .val v → b = encodeTable v) ∧
  (∀ b : Byte, decodeTable b = .pad ↔ b = 0x3D#8)

/-- 43_block_datapath.md R182: the range-based translate with the rule's offsets is the EncodeTable. -/
def Obligations.RangeTranslateIsTheEncodeTable : Prop :=
  ∀ v : Sextet, rangeTranslate v = encodeTable v

/-! ## Decode -/

/-- 42_decode.md R158, success: DECODE completes with the number of decoded bytes, they stand at LDST, the rest of DW keeps
its bytes (20_memory.md R65), and nothing else changes. -/
def Obligations.DecodeWritesTheBytes : Prop :=
  ∀ (s : State) (bytes : List Byte), WindowsDefined .decode s → ReadsAnswered s s.lsrc s.llen.toNat →
    decodeText (s.bytesAt s.lsrc s.llen.toNat) = .ok bytes → WritesAnswered s s.ldst bytes.length →
    ∃ t, exec .decode s = .next t ∧ Completed bytes.length t ∧ t.result.toNat = bytes.length ∧
      t.bytesAt s.ldst bytes.length = bytes ∧ SameOutside ⟨s.ldst, bytes.length⟩ s t ∧ SameBesidesResult s t

/-- 42_decode.md R159, first two points: a length that is no multiple of 4 is InvalidLength with no memory access; when
every read succeeds the error is DecodeText's. -/
def Obligations.DecodeReportsTheTextsError : Prop :=
  ∀ s : State, WindowsDefined .decode s →
    (s.llen.toNat % 4 ≠ 0 →
      ∃ t, exec .decode s = .next t ∧ Failed .invalidLength t ∧ SameMemory s t ∧ SameBesidesResult s t) ∧
    (∀ kind, s.llen.toNat % 4 = 0 → ReadsAnswered s s.lsrc s.llen.toNat →
      decodeText (s.bytesAt s.lsrc s.llen.toNat) = .err kind →
      ∃ t, exec .decode s = .next t ∧ Failed kind t ∧ SameOutside (dstWindow .decode s) s t ∧ SameBesidesResult s t)

/-- 42_decode.md R159, third point: with a refused read the error is BusError, or one that some symbol read successfully
gives; with no such symbol it is BusError. That line (d) of R152 counts only where the symbol before it is read too is log
entry 6, and that a refusal is fixed per address during one command is log entry 7 (DESIGN CHOICE both). -/
def Obligations.DecodeWithARefusedReadReportsAnAdmittedError : Prop :=
  ∀ (s : State) (j : Nat), WindowsDefined .decode s → s.llen.toNat % 4 = 0 → j < s.llen.toNat →
    anyHas s.noRead (elementAddr s.lsrc j) = true →
    ∃ t kind, exec .decode s = .next t ∧ Failed kind t ∧ SameOutside (dstWindow .decode s) s t ∧
      SameBesidesResult s t ∧
      (kind = .busError ∨
        ∃ i, i < s.llen.toNat ∧ anyHas s.noRead (elementAddr s.lsrc i) = false ∧
          errorAt (s.bytesAt s.lsrc s.llen.toNat) i = some kind ∧
          (i % 4 = 3 → anyHas s.noRead (elementAddr s.lsrc (i - 1)) = true →
            ∀ v, decodeTable (s.memByte (elementAddr s.lsrc i)) ≠ .val v))

/-- 60_exceptions.md R195 for DECODE's writes: a refused write of a decoded byte ends it with BusError. -/
def Obligations.DecodeReportsRefusedWrites : Prop :=
  ∀ (s : State) (bytes : List Byte) (j : Nat), WindowsDefined .decode s → ReadsAnswered s s.lsrc s.llen.toNat →
    decodeText (s.bytesAt s.lsrc s.llen.toNat) = .ok bytes → j < bytes.length →
    anyHas s.noWrite (elementAddr s.ldst j) = true →
    ∃ t, exec .decode s = .next t ∧ Failed .busError t ∧ SameOutside (dstWindow .decode s) s t ∧ SameBesidesResult s t

/-- 42_decode.md R150, R152: the error of a text is the one at its lowest offending index, each index judged by lines (a)
to (d); a text without one decodes. -/
def Obligations.LowestOffendingIndexDecides : Prop :=
  ∀ t : List Byte,
    (t.length % 4 ≠ 0 → decodeText t = .err .invalidLength) ∧
    (t.length % 4 = 0 →
      (∀ kind, decodeText t = .err kind ↔
        ∃ i, i < t.length ∧ errorAt t i = some kind ∧ ∀ j, j < i → errorAt t j = none) ∧
      ((∀ i, i < t.length → errorAt t i = none) → ∃ bytes, decodeText t = .ok bytes))

/-- 42_decode.md R153 to R155: the bytes of a group are the leading bytes of its 24 bits G24, three, two or one of them. -/
def Obligations.GroupBytesAreSlicesOfTheGroup : Prop :=
  ∀ v0 v1 v2 v3 : Sextet,
    groupBytes (.val v0) (.val v1) (.val v2) (.val v3) =
      [(v0 ++ v1 ++ v2 ++ v3).extractLsb' 16 8, (v0 ++ v1 ++ v2 ++ v3).extractLsb' 8 8,
       (v0 ++ v1 ++ v2 ++ v3).extractLsb' 0 8] ∧
    groupBytes (.val v0) (.val v1) (.val v2) .pad =
      [(v0 ++ v1 ++ v2 ++ v3).extractLsb' 16 8, (v0 ++ v1 ++ v2 ++ v3).extractLsb' 8 8] ∧
    groupBytes (.val v0) (.val v1) .pad .pad = [(v0 ++ v1 ++ v2 ++ v3).extractLsb' 16 8]

/-- 42_decode.md R156: the discarded bits of a padded final group do not matter: texts that differ only there have the same
answer. -/
def Obligations.DiscardedBitsAreNotChecked : Prop :=
  ∀ (front : List Byte) (v0 v1 v2 u1 u2 : Sextet),
    (v1 >>> 4 = u1 >>> 4 →
      decodeText (front ++ [encodeTable v0, encodeTable v1, 0x3D#8, 0x3D#8]) =
        decodeText (front ++ [encodeTable v0, encodeTable u1, 0x3D#8, 0x3D#8])) ∧
    (v2 >>> 2 = u2 >>> 2 →
      decodeText (front ++ [encodeTable v0, encodeTable v1, encodeTable v2, 0x3D#8]) =
        decodeText (front ++ [encodeTable v0, encodeTable v1, encodeTable u2, 0x3D#8]))

/-- 42_decode.md R157: a text with `=` in a group before the final one does not decode, and where no earlier symbol
offends its error is InvalidPadding. -/
def Obligations.PaddingBeforeTheFinalGroupFails : Prop :=
  ∀ (t : List Byte) (i : Nat), t.length % 4 = 0 → t[i]? = some 0x3D#8 → i / 4 < t.length / 4 - 1 →
    (∃ kind, decodeText t = .err kind) ∧
    ((∀ j, j < i → errorAt t j = none) → decodeText t = .err .invalidPadding)

/-- 42_decode.md R160: decoding an encoding gives the bytes back. -/
def Obligations.DecodeOfEncodeIsTheBytes : Prop :=
  ∀ b : List Byte, b.length < 2 ^ 30 → decodeText (encodeBytes b) = .ok b

/-- 42_decode.md R161: the number of decoded bytes is decoded_length of the text. -/
def Obligations.DecodedCountIsDecodedLength : Prop :=
  ∀ t bytes : List Byte, decodeText t = .ok bytes → decodedLength t = .ok bytes.length

/-- 42_decode.md R162: DECODE ends in success with the whole output at LDST and counted, or in an error with RESULT 0. -/
def Obligations.DecodeIsAllOrNothing : Prop :=
  ∀ s t : State, exec .decode s = .next t →
    (t.errCode = 0#4 ∧ ∃ bytes, decodeText (s.bytesAt s.lsrc s.llen.toNat) = .ok bytes ∧
      t.result.toNat = bytes.length ∧ t.bytesAt s.ldst bytes.length = bytes) ∨
    (t.errCode ≠ 0#4 ∧ t.result = 0#32)

/-! ## The illegal commands -/

/-- 60_exceptions.md R196: each illegal OP ends with IllegalCommand, RESULT 0, in every state, and touches nothing else. -/
def Obligations.IllegalCommandsComplete : Prop :=
  ∀ (s : State) (i : Instr), i = .illegal0 ∨ i = .illegal5 ∨ i = .illegal6 ∨ i = .illegal7 →
    exec i s = .next { s with result := 0#32, errCode := 6#4, done := true, busy := false }

/-! ## All commands -/

/-- 20_memory.md R65, first point, and the frame of every command: no byte outside DW is written, and nothing but memory,
the completion registers and the engine's hidden working state changes. -/
def Obligations.CommandsWriteOnlyTheDestinationWindow : Prop :=
  ∀ (i : Instr) (s t : State), exec i s = .next t → SameOutside (dstWindow i s) s t ∧ SameBesidesResult s t

/-- 10_state.md R28, 70_reset_and_hazards.md R231: the engine's step ends every defined command, whatever memory holds and
the bus refuses: DONE 1, BUSY 0. -/
def Obligations.DefinedCommandsComplete : Prop :=
  ∀ (i : Instr) (s : State), WindowsDefined i s → ∃ t, exec i s = .next t ∧ t.done = true ∧ t.busy = false

/-- 10_state.md R39: operand registers written while a command executes do not change what it does. -/
def Obligations.OperandWritesDoNotReachTheRunningCommand : Prop :=
  ∀ (i : Instr) (s : State) (src : Addr) (len : Length) (dst : Addr),
    exec i { s with srcAddr := src, srcLen := len, dstAddr := dst } =
      match exec i s with
      | .next t => .next { t with srcAddr := src, srcLen := len, dstAddr := dst }
      | .fault r => .fault r
      | .refused r => .refused r

/-! ## Status and interrupt -/

/-- 10_state.md R27: BUSY falls only by the engine's turn or a reset, and rises only by a CMD write with a legal OP. -/
def Obligations.BusyChangesOnlyByItsRule : Prop :=
  ∀ s t : State, step s = .next t →
    (s.busy = true → t.busy = false →
      s.inbox = [] ∨ s.inbox.head? = some .engine ∨ s.inbox.head? = some .reset) ∧
    (s.busy = false → t.busy = true →
      ∃ q w, s.inbox.head? = some (.busWrite q (s.addrOf .cmd) (bytesOfWord w)) ∧ (decodeWord w).legal = true)

/-- 10_state.md R28: DONE is cleared only by a STATUS write with bit 1 set, an accepted CMD write, or reset, and set only by
the engine's turn while BUSY or by an illegal CMD write while IDLE. -/
def Obligations.DoneChangesOnlyByItsRule : Prop :=
  ∀ s t : State, step s = .next t →
    (s.done = true → t.done = false →
      (∃ q w, s.inbox.head? = some (.busWrite q (s.addrOf .status) (bytesOfWord w)) ∧ w.getLsbD 1 = true) ∨
      (∃ q w, s.inbox.head? = some (.busWrite q (s.addrOf .cmd) (bytesOfWord w)) ∧ s.busy = false) ∨
      s.inbox.head? = some .reset) ∧
    (s.done = false → t.done = true →
      (s.busy = true ∧ (s.inbox = [] ∨ s.inbox.head? = some .engine)) ∨
      (∃ q w, s.inbox.head? = some (.busWrite q (s.addrOf .cmd) (bytesOfWord w)) ∧ s.busy = false ∧
        (decodeWord w).legal = false))

/-- 10_state.md R30: OVR is set only by a CMD write while BUSY, and cleared only by a STATUS write with bit 3 set or by
reset. -/
def Obligations.OverrunChangesOnlyByItsRule : Prop :=
  ∀ s t : State, step s = .next t →
    (s.ovr = false → t.ovr = true →
      s.busy = true ∧ ∃ q w, s.inbox.head? = some (.busWrite q (s.addrOf .cmd) (bytesOfWord w))) ∧
    (s.ovr = true → t.ovr = false →
      (∃ q w, s.inbox.head? = some (.busWrite q (s.addrOf .status) (bytesOfWord w)) ∧ w.getLsbD 3 = true) ∨
      s.inbox.head? = some .reset)

/-- 10_state.md R44, 60_exceptions.md R200, R201: every completed command raises IRQ exactly when CTRL.IE is 1; the
acknowledgement lowers it and keeps ERR_CODE and RESULT. -/
def Obligations.InterruptFollowsDone : Prop :=
  (∀ (i : Instr) (s t : State), exec i s = .next t → t.irq = s.ie) ∧
  (∀ s : State, ∃ t, step (s.withWrite .status 0x2#32) = .next t ∧ t.irq = false ∧ t.done = false ∧
    t.errCode = s.errCode ∧ t.result = s.result)

/-! ## Host accesses to memory -/

/-- 20_memory.md R72: a bus write to a byte of SW or DW of the executing command is refused. -/
def Obligations.WindowWritesWhileBusyAreRefused : Prop :=
  ∀ (s : State) (q : Requester) (a : Addr) (bytes : List Byte) (j : Nat), s.busy = true → j < bytes.length →
    ((srcWindow (decodeOp s.lop) s).has (elementAddr a j) = true ∨
      (dstWindow (decodeOp s.lop) s).has (elementAddr a j) = true) →
    (∀ k, k < bytes.length →
      s.registerWindow.has (elementAddr a k) = false ∧ anyHas s.devices (elementAddr a k) = false) →
    step (s.withEvent (.busWrite q a bytes)) = .refused .windowWrittenWhileBusy

/-- 20_memory.md R60, R61, R65, R72, R82: a host store outside the executing command's windows writes its bytes and nothing
else; a host load of bytes outside the executing command's DW (any byte, while IDLE) returns memory's values; and no read,
of memory or of a register, changes anything but what the host has read. That a host access to memory is always answered,
at an address the interconnect refuses the engine too, is the model's choice (log entry 7, DESIGN CHOICE, unsafe), and so is
that an access of several bytes lands in one step (log entry 21, DESIGN CHOICE). The counter of free values is the model's
own (log entry 20, DESIGN CHOICE). -/
def Obligations.HostMemoryAccessesAreOrdinary : Prop :=
  (∀ (s : State) (q : Requester) (a : Addr) (bytes : List Byte), bytes.length ≤ 2 ^ 32 →
    (∀ k, k < bytes.length →
      s.registerWindow.has (elementAddr a k) = false ∧ anyHas s.devices (elementAddr a k) = false ∧
      s.runningSrc.has (elementAddr a k) = false ∧ s.runningDst.has (elementAddr a k) = false) →
    ∃ t, step (s.withEvent (.busWrite q a bytes)) = .next t ∧ t.bytesAt a bytes.length = bytes ∧
      SameOutside ⟨a, bytes.length⟩ s t ∧ { t with mem := s.mem } = s) ∧
  (∀ (s : State) (a : Addr) (size : Nat), size ≤ 2 ^ 32 →
    (∀ k, k < size →
      s.registerWindow.has (elementAddr a k) = false ∧ anyHas s.devices (elementAddr a k) = false ∧
      s.runningDst.has (elementAddr a k) = false) →
    step (s.withEvent (.busRead a size)) = .next { s with reads := s.bytesAt a size :: s.reads }) ∧
  (∀ (s t : State) (a : Addr) (size : Nat), step (s.withEvent (.busRead a size)) = .next t →
    { t with reads := s.reads, freeCount := s.freeCount } = s)

/-! ## The whole machine -/

/-- The invariant holds at reset. -/
def Obligations.ResetStateMeetsTheInvariant : Prop := Inv State.reset

/-- Every step keeps the invariant, from every state that meets it: memory stays canonical, ERR_CODE takes no reserved code
(60_exceptions.md R197), an error leaves RESULT 0 (R191), and while BUSY, DONE, ERR_CODE and RESULT are 0 and LOP is a
legal OP (10_state.md R31, R35, R37). -/
def Obligations.EveryStepKeepsTheInvariant : Prop :=
  ∀ s t : State, Inv s → step s = .next t → Inv t

/-- 10_state.md R39, R43: the engine's working state, and the latched operands while IDLE, are not observable: states that
differ only there take steps the host cannot tell apart. -/
def Obligations.HiddenStateIsNotObservable : Prop :=
  ∀ s t : State, SameToHost s t → SameOutcome (step s) (step t)

/-- 30_encoding.md R96, 70_reset_and_hazards.md R231: a POLL begun while a defined command executes ends: after the BUSY
reads the schedule gives, the engine's step and one more read, with BUSY 0. The number of steps, and that no other event
comes between two reads of one POLL, is the model's choice (log entry 14, DESIGN CHOICE). -/
def Obligations.PollEndsWithTheCommand : Prop :=
  ∀ (s : State) (busyReads : Nat), s.busy = true → WindowsDefined (decodeOp s.lop) s →
    ∃ t, Sys2Proof.core.run (busyReads + 3) (s.withEvent (.poll busyReads)) = .next t ∧
      t.busy = false ∧ t.done = true ∧ t.inbox = s.inbox ∧ t.reads.length = s.reads.length + busyReads + 2 ∧
      t.reads.head? = some (bytesOfWord (readReg .status t))

/-- 30_encoding.md R97 with 10_state.md R37: the writes a pseudo-command expands to, run one a step by a host that finds the
engine IDLE, leave the block BUSY with the operands given; the acknowledgements and the interrupt switches do what they
say. -/
def Obligations.PseudoCommandsDoWhatTheySay : Prop :=
  ∀ (s : State) (src len dst : Word), s.inbox = [] →
    (s.busy = false →
      (WindowsDefined .encode { s with lsrc := src, llen := len.setWidth 30, ldst := dst } →
        Sys2Proof.core.run 4 (s.withScript (Pseudo.encode src len dst).expand) =
          .next
            { s with
              srcAddr := src, srcLen := len.setWidth 30, dstAddr := dst, lop := 1#3, lsrc := src,
              llen := len.setWidth 30, ldst := dst, done := false, errCode := 0#4, result := 0#32, busy := true }) ∧
      (WindowsDefined .decode { s with lsrc := src, llen := len.setWidth 30, ldst := dst } →
        Sys2Proof.core.run 4 (s.withScript (Pseudo.decode src len dst).expand) =
          .next
            { s with
              srcAddr := src, srcLen := len.setWidth 30, dstAddr := dst, lop := 2#3, lsrc := src,
              llen := len.setWidth 30, ldst := dst, done := false, errCode := 0#4, result := 0#32, busy := true }) ∧
      Sys2Proof.core.run 2 (s.withScript (Pseudo.encLen len).expand) =
        .next
          { s with
            srcLen := len.setWidth 30, lop := 3#3, lsrc := s.srcAddr, llen := len.setWidth 30, ldst := s.dstAddr,
            done := false, errCode := 0#4, result := 0#32, busy := true } ∧
      (WindowsDefined .decLen { s with lsrc := src, llen := len.setWidth 30, ldst := s.dstAddr } →
        Sys2Proof.core.run 3 (s.withScript (Pseudo.decLen src len).expand) =
          .next
            { s with
              srcAddr := src, srcLen := len.setWidth 30, lop := 4#3, lsrc := src, llen := len.setWidth 30,
              ldst := s.dstAddr, done := false, errCode := 0#4, result := 0#32, busy := true })) ∧
    Sys2Proof.core.run 1 (s.withScript Pseudo.ack.expand) = .next { s with done := false } ∧
    Sys2Proof.core.run 1 (s.withScript Pseudo.ackOvr.expand) = .next { s with ovr := false } ∧
    Sys2Proof.core.run 1 (s.withScript Pseudo.irqOn.expand) = .next { s with ie := true } ∧
    Sys2Proof.core.run 1 (s.withScript Pseudo.irqOff.expand) = .next { s with ie := false }

/-- 42_decode.md R160 on the machine: ENCODE of the bytes at LSRC, then DECODE of the text it left at LDST, gives the bytes
back at a third address and counts them. -/
def Obligations.EncodeThenDecodeRestoresTheBytes : Prop :=
  ∀ (s : State) (back : Addr), encodedLength s.llen.toNat < 2 ^ 30 →
    WindowsDefined .encode s →
    WindowsDefined .decode
      { s with lsrc := s.ldst, llen := BitVec.ofNat 30 (encodedLength s.llen.toNat), ldst := back } →
    ReadsAnswered s s.lsrc s.llen.toNat → WritesAnswered s s.ldst (encodedLength s.llen.toNat) →
    ReadsAnswered s s.ldst (encodedLength s.llen.toNat) → WritesAnswered s back s.llen.toNat →
    ∃ t u, exec .encode s = .next t ∧ t.result.toNat = encodedLength s.llen.toNat ∧
      exec .decode { t with lsrc := s.ldst, llen := BitVec.ofNat 30 (encodedLength s.llen.toNat), ldst := back } =
        .next u ∧
      Completed s.llen.toNat u ∧ u.result.toNat = s.llen.toNat ∧
      u.bytesAt back s.llen.toNat = s.bytesAt s.lsrc s.llen.toNat

/-! ## The block-parallel datapath -/

/-- 43_block_datapath.md R180, R181 for encode: whatever the block size and however many blocks are taken, the datapath's
output is EncodeBytes. -/
def Obligations.BlockEncodeEqualsScalarEncode : Prop :=
  ∀ (blockGroups fuel : Nat) (b : List Byte), encodeBlocks blockGroups fuel b = encodeBytes b

/-- 43_block_datapath.md R180, R181, R185 for decode: whatever the block size and however many blocks are taken, the
datapath's answer, bytes or error, is DecodeText's. -/
def Obligations.BlockDecodeEqualsScalarDecode : Prop :=
  ∀ (blockGroups fuel : Nat) (t : List Byte), decodeBlocks blockGroups fuel t = decodeText t
end

