-- ==== Sys2Proof/Laws/State.lean ====
section
/-! SUPPORT. What each shared update of the state does to each field: one lemma per field per update, true by rfl. -/

namespace Sys2Proof.Machine

open Sys2Proof

/-! ## completion -/

@[simp] theorem completion_ie (n : Word) (c : BitVec 4) (s : State) : (completion n c s).ie = s.ie := rfl
@[simp] theorem completion_busy (n : Word) (c : BitVec 4) (s : State) : (completion n c s).busy = false := rfl
@[simp] theorem completion_done (n : Word) (c : BitVec 4) (s : State) : (completion n c s).done = true := rfl
@[simp] theorem completion_ovr (n : Word) (c : BitVec 4) (s : State) : (completion n c s).ovr = s.ovr := rfl
@[simp] theorem completion_errCode (n : Word) (c : BitVec 4) (s : State) : (completion n c s).errCode = c := rfl
@[simp] theorem completion_srcAddr (n : Word) (c : BitVec 4) (s : State) : (completion n c s).srcAddr = s.srcAddr := rfl
@[simp] theorem completion_srcLen (n : Word) (c : BitVec 4) (s : State) : (completion n c s).srcLen = s.srcLen := rfl
@[simp] theorem completion_dstAddr (n : Word) (c : BitVec 4) (s : State) : (completion n c s).dstAddr = s.dstAddr := rfl
@[simp] theorem completion_result (n : Word) (c : BitVec 4) (s : State) : (completion n c s).result = n := rfl
@[simp] theorem completion_lop (n : Word) (c : BitVec 4) (s : State) : (completion n c s).lop = s.lop := rfl
@[simp] theorem completion_lsrc (n : Word) (c : BitVec 4) (s : State) : (completion n c s).lsrc = s.lsrc := rfl
@[simp] theorem completion_llen (n : Word) (c : BitVec 4) (s : State) : (completion n c s).llen = s.llen := rfl
@[simp] theorem completion_ldst (n : Word) (c : BitVec 4) (s : State) : (completion n c s).ldst = s.ldst := rfl
@[simp] theorem completion_work (n : Word) (c : BitVec 4) (s : State) : (completion n c s).work = s.work := rfl
@[simp] theorem completion_mem (n : Word) (c : BitVec 4) (s : State) : (completion n c s).mem = s.mem := rfl
@[simp] theorem completion_base (n : Word) (c : BitVec 4) (s : State) : (completion n c s).base = s.base := rfl
@[simp] theorem completion_devices (n : Word) (c : BitVec 4) (s : State) : (completion n c s).devices = s.devices := rfl
@[simp] theorem completion_noRead (n : Word) (c : BitVec 4) (s : State) : (completion n c s).noRead = s.noRead := rfl
@[simp] theorem completion_noWrite (n : Word) (c : BitVec 4) (s : State) : (completion n c s).noWrite = s.noWrite := rfl
@[simp] theorem completion_aborted (n : Word) (c : BitVec 4) (s : State) : (completion n c s).aborted = s.aborted := rfl
@[simp] theorem completion_inbox (n : Word) (c : BitVec 4) (s : State) : (completion n c s).inbox = s.inbox := rfl
@[simp] theorem completion_reads (n : Word) (c : BitVec 4) (s : State) : (completion n c s).reads = s.reads := rfl
@[simp] theorem completion_freeCount (n : Word) (c : BitVec 4) (s : State) : (completion n c s).freeCount = s.freeCount := rfl

/-! ## complete -/

@[simp] theorem complete_ie (n : Nat) (s : State) : (complete n s).ie = s.ie := rfl
@[simp] theorem complete_busy (n : Nat) (s : State) : (complete n s).busy = false := rfl
@[simp] theorem complete_done (n : Nat) (s : State) : (complete n s).done = true := rfl
@[simp] theorem complete_ovr (n : Nat) (s : State) : (complete n s).ovr = s.ovr := rfl
@[simp] theorem complete_errCode (n : Nat) (s : State) : (complete n s).errCode = 0#4 := rfl
@[simp] theorem complete_srcAddr (n : Nat) (s : State) : (complete n s).srcAddr = s.srcAddr := rfl
@[simp] theorem complete_srcLen (n : Nat) (s : State) : (complete n s).srcLen = s.srcLen := rfl
@[simp] theorem complete_dstAddr (n : Nat) (s : State) : (complete n s).dstAddr = s.dstAddr := rfl
@[simp] theorem complete_result (n : Nat) (s : State) : (complete n s).result = BitVec.ofNat 32 n := rfl
@[simp] theorem complete_lop (n : Nat) (s : State) : (complete n s).lop = s.lop := rfl
@[simp] theorem complete_lsrc (n : Nat) (s : State) : (complete n s).lsrc = s.lsrc := rfl
@[simp] theorem complete_llen (n : Nat) (s : State) : (complete n s).llen = s.llen := rfl
@[simp] theorem complete_ldst (n : Nat) (s : State) : (complete n s).ldst = s.ldst := rfl
@[simp] theorem complete_work (n : Nat) (s : State) : (complete n s).work = s.work := rfl
@[simp] theorem complete_mem (n : Nat) (s : State) : (complete n s).mem = s.mem := rfl
@[simp] theorem complete_base (n : Nat) (s : State) : (complete n s).base = s.base := rfl
@[simp] theorem complete_devices (n : Nat) (s : State) : (complete n s).devices = s.devices := rfl
@[simp] theorem complete_noRead (n : Nat) (s : State) : (complete n s).noRead = s.noRead := rfl
@[simp] theorem complete_noWrite (n : Nat) (s : State) : (complete n s).noWrite = s.noWrite := rfl
@[simp] theorem complete_aborted (n : Nat) (s : State) : (complete n s).aborted = s.aborted := rfl
@[simp] theorem complete_inbox (n : Nat) (s : State) : (complete n s).inbox = s.inbox := rfl
@[simp] theorem complete_reads (n : Nat) (s : State) : (complete n s).reads = s.reads := rfl
@[simp] theorem complete_freeCount (n : Nat) (s : State) : (complete n s).freeCount = s.freeCount := rfl

/-! ## raiseError -/

@[simp] theorem raiseError_ie (k : ErrorKind) (s : State) : (raiseError k s).ie = s.ie := rfl
@[simp] theorem raiseError_busy (k : ErrorKind) (s : State) : (raiseError k s).busy = false := rfl
@[simp] theorem raiseError_done (k : ErrorKind) (s : State) : (raiseError k s).done = true := rfl
@[simp] theorem raiseError_ovr (k : ErrorKind) (s : State) : (raiseError k s).ovr = s.ovr := rfl
@[simp] theorem raiseError_errCode (k : ErrorKind) (s : State) : (raiseError k s).errCode = k.code := rfl
@[simp] theorem raiseError_srcAddr (k : ErrorKind) (s : State) : (raiseError k s).srcAddr = s.srcAddr := rfl
@[simp] theorem raiseError_srcLen (k : ErrorKind) (s : State) : (raiseError k s).srcLen = s.srcLen := rfl
@[simp] theorem raiseError_dstAddr (k : ErrorKind) (s : State) : (raiseError k s).dstAddr = s.dstAddr := rfl
@[simp] theorem raiseError_result (k : ErrorKind) (s : State) : (raiseError k s).result = 0#32 := rfl
@[simp] theorem raiseError_lop (k : ErrorKind) (s : State) : (raiseError k s).lop = s.lop := rfl
@[simp] theorem raiseError_lsrc (k : ErrorKind) (s : State) : (raiseError k s).lsrc = s.lsrc := rfl
@[simp] theorem raiseError_llen (k : ErrorKind) (s : State) : (raiseError k s).llen = s.llen := rfl
@[simp] theorem raiseError_ldst (k : ErrorKind) (s : State) : (raiseError k s).ldst = s.ldst := rfl
@[simp] theorem raiseError_work (k : ErrorKind) (s : State) : (raiseError k s).work = s.work := rfl
@[simp] theorem raiseError_mem (k : ErrorKind) (s : State) : (raiseError k s).mem = s.mem := rfl
@[simp] theorem raiseError_base (k : ErrorKind) (s : State) : (raiseError k s).base = s.base := rfl
@[simp] theorem raiseError_devices (k : ErrorKind) (s : State) : (raiseError k s).devices = s.devices := rfl
@[simp] theorem raiseError_noRead (k : ErrorKind) (s : State) : (raiseError k s).noRead = s.noRead := rfl
@[simp] theorem raiseError_noWrite (k : ErrorKind) (s : State) : (raiseError k s).noWrite = s.noWrite := rfl
@[simp] theorem raiseError_aborted (k : ErrorKind) (s : State) : (raiseError k s).aborted = s.aborted := rfl
@[simp] theorem raiseError_inbox (k : ErrorKind) (s : State) : (raiseError k s).inbox = s.inbox := rfl
@[simp] theorem raiseError_reads (k : ErrorKind) (s : State) : (raiseError k s).reads = s.reads := rfl
@[simp] theorem raiseError_freeCount (k : ErrorKind) (s : State) : (raiseError k s).freeCount = s.freeCount := rfl

/-! ## scramble -/

@[simp] theorem scramble_ie (w : Window) (s : State) : (scramble w s).ie = s.ie := rfl
@[simp] theorem scramble_busy (w : Window) (s : State) : (scramble w s).busy = s.busy := rfl
@[simp] theorem scramble_done (w : Window) (s : State) : (scramble w s).done = s.done := rfl
@[simp] theorem scramble_ovr (w : Window) (s : State) : (scramble w s).ovr = s.ovr := rfl
@[simp] theorem scramble_errCode (w : Window) (s : State) : (scramble w s).errCode = s.errCode := rfl
@[simp] theorem scramble_srcAddr (w : Window) (s : State) : (scramble w s).srcAddr = s.srcAddr := rfl
@[simp] theorem scramble_srcLen (w : Window) (s : State) : (scramble w s).srcLen = s.srcLen := rfl
@[simp] theorem scramble_dstAddr (w : Window) (s : State) : (scramble w s).dstAddr = s.dstAddr := rfl
@[simp] theorem scramble_result (w : Window) (s : State) : (scramble w s).result = s.result := rfl
@[simp] theorem scramble_lop (w : Window) (s : State) : (scramble w s).lop = s.lop := rfl
@[simp] theorem scramble_lsrc (w : Window) (s : State) : (scramble w s).lsrc = s.lsrc := rfl
@[simp] theorem scramble_llen (w : Window) (s : State) : (scramble w s).llen = s.llen := rfl
@[simp] theorem scramble_ldst (w : Window) (s : State) : (scramble w s).ldst = s.ldst := rfl
@[simp] theorem scramble_work (w : Window) (s : State) : (scramble w s).work = s.work := rfl
@[simp] theorem scramble_mem (w : Window) (s : State) : (scramble w s).mem = writeBytes s.mem w.start (freeBytes s.freeCount w.len) := rfl
@[simp] theorem scramble_base (w : Window) (s : State) : (scramble w s).base = s.base := rfl
@[simp] theorem scramble_devices (w : Window) (s : State) : (scramble w s).devices = s.devices := rfl
@[simp] theorem scramble_noRead (w : Window) (s : State) : (scramble w s).noRead = s.noRead := rfl
@[simp] theorem scramble_noWrite (w : Window) (s : State) : (scramble w s).noWrite = s.noWrite := rfl
@[simp] theorem scramble_aborted (w : Window) (s : State) : (scramble w s).aborted = s.aborted := rfl
@[simp] theorem scramble_inbox (w : Window) (s : State) : (scramble w s).inbox = s.inbox := rfl
@[simp] theorem scramble_reads (w : Window) (s : State) : (scramble w s).reads = s.reads := rfl
@[simp] theorem scramble_freeCount (w : Window) (s : State) : (scramble w s).freeCount = s.freeCount + w.len := rfl

/-! ## engineWorked -/

@[simp] theorem engineWorked_ie (s : State) : (engineWorked s).ie = s.ie := rfl
@[simp] theorem engineWorked_busy (s : State) : (engineWorked s).busy = s.busy := rfl
@[simp] theorem engineWorked_done (s : State) : (engineWorked s).done = s.done := rfl
@[simp] theorem engineWorked_ovr (s : State) : (engineWorked s).ovr = s.ovr := rfl
@[simp] theorem engineWorked_errCode (s : State) : (engineWorked s).errCode = s.errCode := rfl
@[simp] theorem engineWorked_srcAddr (s : State) : (engineWorked s).srcAddr = s.srcAddr := rfl
@[simp] theorem engineWorked_srcLen (s : State) : (engineWorked s).srcLen = s.srcLen := rfl
@[simp] theorem engineWorked_dstAddr (s : State) : (engineWorked s).dstAddr = s.dstAddr := rfl
@[simp] theorem engineWorked_result (s : State) : (engineWorked s).result = s.result := rfl
@[simp] theorem engineWorked_lop (s : State) : (engineWorked s).lop = s.lop := rfl
@[simp] theorem engineWorked_lsrc (s : State) : (engineWorked s).lsrc = s.lsrc := rfl
@[simp] theorem engineWorked_llen (s : State) : (engineWorked s).llen = s.llen := rfl
@[simp] theorem engineWorked_ldst (s : State) : (engineWorked s).ldst = s.ldst := rfl
@[simp] theorem engineWorked_mem (s : State) : (engineWorked s).mem = s.mem := rfl
@[simp] theorem engineWorked_base (s : State) : (engineWorked s).base = s.base := rfl
@[simp] theorem engineWorked_devices (s : State) : (engineWorked s).devices = s.devices := rfl
@[simp] theorem engineWorked_noRead (s : State) : (engineWorked s).noRead = s.noRead := rfl
@[simp] theorem engineWorked_noWrite (s : State) : (engineWorked s).noWrite = s.noWrite := rfl
@[simp] theorem engineWorked_aborted (s : State) : (engineWorked s).aborted = s.aborted := rfl
@[simp] theorem engineWorked_inbox (s : State) : (engineWorked s).inbox = s.inbox := rfl
@[simp] theorem engineWorked_reads (s : State) : (engineWorked s).reads = s.reads := rfl
@[simp] theorem engineWorked_freeCount (s : State) : (engineWorked s).freeCount = s.freeCount + 1 := rfl

/-! ## latch -/

@[simp] theorem latch_ie (w : Word) (s : State) : (latch w s).ie = s.ie := rfl
@[simp] theorem latch_busy (w : Word) (s : State) : (latch w s).busy = s.busy := rfl
@[simp] theorem latch_done (w : Word) (s : State) : (latch w s).done = false := rfl
@[simp] theorem latch_ovr (w : Word) (s : State) : (latch w s).ovr = s.ovr := rfl
@[simp] theorem latch_errCode (w : Word) (s : State) : (latch w s).errCode = 0#4 := rfl
@[simp] theorem latch_srcAddr (w : Word) (s : State) : (latch w s).srcAddr = s.srcAddr := rfl
@[simp] theorem latch_srcLen (w : Word) (s : State) : (latch w s).srcLen = s.srcLen := rfl
@[simp] theorem latch_dstAddr (w : Word) (s : State) : (latch w s).dstAddr = s.dstAddr := rfl
@[simp] theorem latch_result (w : Word) (s : State) : (latch w s).result = 0#32 := rfl
@[simp] theorem latch_lop (w : Word) (s : State) : (latch w s).lop = commandOp w := rfl
@[simp] theorem latch_lsrc (w : Word) (s : State) : (latch w s).lsrc = s.srcAddr := rfl
@[simp] theorem latch_llen (w : Word) (s : State) : (latch w s).llen = s.srcLen := rfl
@[simp] theorem latch_ldst (w : Word) (s : State) : (latch w s).ldst = s.dstAddr := rfl
@[simp] theorem latch_work (w : Word) (s : State) : (latch w s).work = s.work := rfl
@[simp] theorem latch_mem (w : Word) (s : State) : (latch w s).mem = s.mem := rfl
@[simp] theorem latch_base (w : Word) (s : State) : (latch w s).base = s.base := rfl
@[simp] theorem latch_devices (w : Word) (s : State) : (latch w s).devices = s.devices := rfl
@[simp] theorem latch_noRead (w : Word) (s : State) : (latch w s).noRead = s.noRead := rfl
@[simp] theorem latch_noWrite (w : Word) (s : State) : (latch w s).noWrite = s.noWrite := rfl
@[simp] theorem latch_aborted (w : Word) (s : State) : (latch w s).aborted = s.aborted := rfl
@[simp] theorem latch_inbox (w : Word) (s : State) : (latch w s).inbox = s.inbox := rfl
@[simp] theorem latch_reads (w : Word) (s : State) : (latch w s).reads = s.reads := rfl
@[simp] theorem latch_freeCount (w : Word) (s : State) : (latch w s).freeCount = s.freeCount := rfl

/-! ## enterBusy -/

@[simp] theorem enterBusy_ie (s : State) : (enterBusy s).ie = s.ie := rfl
@[simp] theorem enterBusy_busy (s : State) : (enterBusy s).busy = true := rfl
@[simp] theorem enterBusy_done (s : State) : (enterBusy s).done = s.done := rfl
@[simp] theorem enterBusy_ovr (s : State) : (enterBusy s).ovr = s.ovr := rfl
@[simp] theorem enterBusy_errCode (s : State) : (enterBusy s).errCode = s.errCode := rfl
@[simp] theorem enterBusy_srcAddr (s : State) : (enterBusy s).srcAddr = s.srcAddr := rfl
@[simp] theorem enterBusy_srcLen (s : State) : (enterBusy s).srcLen = s.srcLen := rfl
@[simp] theorem enterBusy_dstAddr (s : State) : (enterBusy s).dstAddr = s.dstAddr := rfl
@[simp] theorem enterBusy_result (s : State) : (enterBusy s).result = s.result := rfl
@[simp] theorem enterBusy_lop (s : State) : (enterBusy s).lop = s.lop := rfl
@[simp] theorem enterBusy_lsrc (s : State) : (enterBusy s).lsrc = s.lsrc := rfl
@[simp] theorem enterBusy_llen (s : State) : (enterBusy s).llen = s.llen := rfl
@[simp] theorem enterBusy_ldst (s : State) : (enterBusy s).ldst = s.ldst := rfl
@[simp] theorem enterBusy_work (s : State) : (enterBusy s).work = s.work := rfl
@[simp] theorem enterBusy_mem (s : State) : (enterBusy s).mem = s.mem := rfl
@[simp] theorem enterBusy_base (s : State) : (enterBusy s).base = s.base := rfl
@[simp] theorem enterBusy_devices (s : State) : (enterBusy s).devices = s.devices := rfl
@[simp] theorem enterBusy_noRead (s : State) : (enterBusy s).noRead = s.noRead := rfl
@[simp] theorem enterBusy_noWrite (s : State) : (enterBusy s).noWrite = s.noWrite := rfl
@[simp] theorem enterBusy_aborted (s : State) : (enterBusy s).aborted = s.aborted := rfl
@[simp] theorem enterBusy_inbox (s : State) : (enterBusy s).inbox = s.inbox := rfl
@[simp] theorem enterBusy_reads (s : State) : (enterBusy s).reads = s.reads := rfl
@[simp] theorem enterBusy_freeCount (s : State) : (enterBusy s).freeCount = s.freeCount := rfl

/-! ## keepRead -/

@[simp] theorem keepRead_ie (b : List Byte) (s : State) : (keepRead b s).ie = s.ie := rfl
@[simp] theorem keepRead_busy (b : List Byte) (s : State) : (keepRead b s).busy = s.busy := rfl
@[simp] theorem keepRead_done (b : List Byte) (s : State) : (keepRead b s).done = s.done := rfl
@[simp] theorem keepRead_ovr (b : List Byte) (s : State) : (keepRead b s).ovr = s.ovr := rfl
@[simp] theorem keepRead_errCode (b : List Byte) (s : State) : (keepRead b s).errCode = s.errCode := rfl
@[simp] theorem keepRead_srcAddr (b : List Byte) (s : State) : (keepRead b s).srcAddr = s.srcAddr := rfl
@[simp] theorem keepRead_srcLen (b : List Byte) (s : State) : (keepRead b s).srcLen = s.srcLen := rfl
@[simp] theorem keepRead_dstAddr (b : List Byte) (s : State) : (keepRead b s).dstAddr = s.dstAddr := rfl
@[simp] theorem keepRead_result (b : List Byte) (s : State) : (keepRead b s).result = s.result := rfl
@[simp] theorem keepRead_lop (b : List Byte) (s : State) : (keepRead b s).lop = s.lop := rfl
@[simp] theorem keepRead_lsrc (b : List Byte) (s : State) : (keepRead b s).lsrc = s.lsrc := rfl
@[simp] theorem keepRead_llen (b : List Byte) (s : State) : (keepRead b s).llen = s.llen := rfl
@[simp] theorem keepRead_ldst (b : List Byte) (s : State) : (keepRead b s).ldst = s.ldst := rfl
@[simp] theorem keepRead_work (b : List Byte) (s : State) : (keepRead b s).work = s.work := rfl
@[simp] theorem keepRead_mem (b : List Byte) (s : State) : (keepRead b s).mem = s.mem := rfl
@[simp] theorem keepRead_base (b : List Byte) (s : State) : (keepRead b s).base = s.base := rfl
@[simp] theorem keepRead_devices (b : List Byte) (s : State) : (keepRead b s).devices = s.devices := rfl
@[simp] theorem keepRead_noRead (b : List Byte) (s : State) : (keepRead b s).noRead = s.noRead := rfl
@[simp] theorem keepRead_noWrite (b : List Byte) (s : State) : (keepRead b s).noWrite = s.noWrite := rfl
@[simp] theorem keepRead_aborted (b : List Byte) (s : State) : (keepRead b s).aborted = s.aborted := rfl
@[simp] theorem keepRead_inbox (b : List Byte) (s : State) : (keepRead b s).inbox = s.inbox := rfl
@[simp] theorem keepRead_reads (b : List Byte) (s : State) : (keepRead b s).reads = b :: s.reads := rfl
@[simp] theorem keepRead_freeCount (b : List Byte) (s : State) : (keepRead b s).freeCount = s.freeCount := rfl

/-! ## acknowledge -/

@[simp] theorem acknowledge_ie (s : State) : (acknowledge s).ie = s.ie := rfl
@[simp] theorem acknowledge_busy (s : State) : (acknowledge s).busy = s.busy := rfl
@[simp] theorem acknowledge_done (s : State) : (acknowledge s).done = false := rfl
@[simp] theorem acknowledge_ovr (s : State) : (acknowledge s).ovr = s.ovr := rfl
@[simp] theorem acknowledge_errCode (s : State) : (acknowledge s).errCode = s.errCode := rfl
@[simp] theorem acknowledge_srcAddr (s : State) : (acknowledge s).srcAddr = s.srcAddr := rfl
@[simp] theorem acknowledge_srcLen (s : State) : (acknowledge s).srcLen = s.srcLen := rfl
@[simp] theorem acknowledge_dstAddr (s : State) : (acknowledge s).dstAddr = s.dstAddr := rfl
@[simp] theorem acknowledge_result (s : State) : (acknowledge s).result = s.result := rfl
@[simp] theorem acknowledge_lop (s : State) : (acknowledge s).lop = s.lop := rfl
@[simp] theorem acknowledge_lsrc (s : State) : (acknowledge s).lsrc = s.lsrc := rfl
@[simp] theorem acknowledge_llen (s : State) : (acknowledge s).llen = s.llen := rfl
@[simp] theorem acknowledge_ldst (s : State) : (acknowledge s).ldst = s.ldst := rfl
@[simp] theorem acknowledge_work (s : State) : (acknowledge s).work = s.work := rfl
@[simp] theorem acknowledge_mem (s : State) : (acknowledge s).mem = s.mem := rfl
@[simp] theorem acknowledge_base (s : State) : (acknowledge s).base = s.base := rfl
@[simp] theorem acknowledge_devices (s : State) : (acknowledge s).devices = s.devices := rfl
@[simp] theorem acknowledge_noRead (s : State) : (acknowledge s).noRead = s.noRead := rfl
@[simp] theorem acknowledge_noWrite (s : State) : (acknowledge s).noWrite = s.noWrite := rfl
@[simp] theorem acknowledge_aborted (s : State) : (acknowledge s).aborted = s.aborted := rfl
@[simp] theorem acknowledge_inbox (s : State) : (acknowledge s).inbox = s.inbox := rfl
@[simp] theorem acknowledge_reads (s : State) : (acknowledge s).reads = s.reads := rfl
@[simp] theorem acknowledge_freeCount (s : State) : (acknowledge s).freeCount = s.freeCount := rfl

/-! ## setOverrun -/

@[simp] theorem setOverrun_ie (s : State) : (setOverrun s).ie = s.ie := rfl
@[simp] theorem setOverrun_busy (s : State) : (setOverrun s).busy = s.busy := rfl
@[simp] theorem setOverrun_done (s : State) : (setOverrun s).done = s.done := rfl
@[simp] theorem setOverrun_ovr (s : State) : (setOverrun s).ovr = true := rfl
@[simp] theorem setOverrun_errCode (s : State) : (setOverrun s).errCode = s.errCode := rfl
@[simp] theorem setOverrun_srcAddr (s : State) : (setOverrun s).srcAddr = s.srcAddr := rfl
@[simp] theorem setOverrun_srcLen (s : State) : (setOverrun s).srcLen = s.srcLen := rfl
@[simp] theorem setOverrun_dstAddr (s : State) : (setOverrun s).dstAddr = s.dstAddr := rfl
@[simp] theorem setOverrun_result (s : State) : (setOverrun s).result = s.result := rfl
@[simp] theorem setOverrun_lop (s : State) : (setOverrun s).lop = s.lop := rfl
@[simp] theorem setOverrun_lsrc (s : State) : (setOverrun s).lsrc = s.lsrc := rfl
@[simp] theorem setOverrun_llen (s : State) : (setOverrun s).llen = s.llen := rfl
@[simp] theorem setOverrun_ldst (s : State) : (setOverrun s).ldst = s.ldst := rfl
@[simp] theorem setOverrun_work (s : State) : (setOverrun s).work = s.work := rfl
@[simp] theorem setOverrun_mem (s : State) : (setOverrun s).mem = s.mem := rfl
@[simp] theorem setOverrun_base (s : State) : (setOverrun s).base = s.base := rfl
@[simp] theorem setOverrun_devices (s : State) : (setOverrun s).devices = s.devices := rfl
@[simp] theorem setOverrun_noRead (s : State) : (setOverrun s).noRead = s.noRead := rfl
@[simp] theorem setOverrun_noWrite (s : State) : (setOverrun s).noWrite = s.noWrite := rfl
@[simp] theorem setOverrun_aborted (s : State) : (setOverrun s).aborted = s.aborted := rfl
@[simp] theorem setOverrun_inbox (s : State) : (setOverrun s).inbox = s.inbox := rfl
@[simp] theorem setOverrun_reads (s : State) : (setOverrun s).reads = s.reads := rfl
@[simp] theorem setOverrun_freeCount (s : State) : (setOverrun s).freeCount = s.freeCount := rfl

/-! ## clearOverrun -/

@[simp] theorem clearOverrun_ie (s : State) : (clearOverrun s).ie = s.ie := rfl
@[simp] theorem clearOverrun_busy (s : State) : (clearOverrun s).busy = s.busy := rfl
@[simp] theorem clearOverrun_done (s : State) : (clearOverrun s).done = s.done := rfl
@[simp] theorem clearOverrun_ovr (s : State) : (clearOverrun s).ovr = false := rfl
@[simp] theorem clearOverrun_errCode (s : State) : (clearOverrun s).errCode = s.errCode := rfl
@[simp] theorem clearOverrun_srcAddr (s : State) : (clearOverrun s).srcAddr = s.srcAddr := rfl
@[simp] theorem clearOverrun_srcLen (s : State) : (clearOverrun s).srcLen = s.srcLen := rfl
@[simp] theorem clearOverrun_dstAddr (s : State) : (clearOverrun s).dstAddr = s.dstAddr := rfl
@[simp] theorem clearOverrun_result (s : State) : (clearOverrun s).result = s.result := rfl
@[simp] theorem clearOverrun_lop (s : State) : (clearOverrun s).lop = s.lop := rfl
@[simp] theorem clearOverrun_lsrc (s : State) : (clearOverrun s).lsrc = s.lsrc := rfl
@[simp] theorem clearOverrun_llen (s : State) : (clearOverrun s).llen = s.llen := rfl
@[simp] theorem clearOverrun_ldst (s : State) : (clearOverrun s).ldst = s.ldst := rfl
@[simp] theorem clearOverrun_work (s : State) : (clearOverrun s).work = s.work := rfl
@[simp] theorem clearOverrun_mem (s : State) : (clearOverrun s).mem = s.mem := rfl
@[simp] theorem clearOverrun_base (s : State) : (clearOverrun s).base = s.base := rfl
@[simp] theorem clearOverrun_devices (s : State) : (clearOverrun s).devices = s.devices := rfl
@[simp] theorem clearOverrun_noRead (s : State) : (clearOverrun s).noRead = s.noRead := rfl
@[simp] theorem clearOverrun_noWrite (s : State) : (clearOverrun s).noWrite = s.noWrite := rfl
@[simp] theorem clearOverrun_aborted (s : State) : (clearOverrun s).aborted = s.aborted := rfl
@[simp] theorem clearOverrun_inbox (s : State) : (clearOverrun s).inbox = s.inbox := rfl
@[simp] theorem clearOverrun_reads (s : State) : (clearOverrun s).reads = s.reads := rfl
@[simp] theorem clearOverrun_freeCount (s : State) : (clearOverrun s).freeCount = s.freeCount := rfl

/-! ## resetBlock -/

@[simp] theorem resetBlock_ie (s : State) : (resetBlock s).ie = false := rfl
@[simp] theorem resetBlock_busy (s : State) : (resetBlock s).busy = false := rfl
@[simp] theorem resetBlock_done (s : State) : (resetBlock s).done = false := rfl
@[simp] theorem resetBlock_ovr (s : State) : (resetBlock s).ovr = false := rfl
@[simp] theorem resetBlock_errCode (s : State) : (resetBlock s).errCode = 0#4 := rfl
@[simp] theorem resetBlock_srcAddr (s : State) : (resetBlock s).srcAddr = 0#32 := rfl
@[simp] theorem resetBlock_srcLen (s : State) : (resetBlock s).srcLen = 0#30 := rfl
@[simp] theorem resetBlock_dstAddr (s : State) : (resetBlock s).dstAddr = 0#32 := rfl
@[simp] theorem resetBlock_result (s : State) : (resetBlock s).result = 0#32 := rfl
@[simp] theorem resetBlock_lop (s : State) : (resetBlock s).lop = 0#3 := rfl
@[simp] theorem resetBlock_lsrc (s : State) : (resetBlock s).lsrc = 0#32 := rfl
@[simp] theorem resetBlock_llen (s : State) : (resetBlock s).llen = 0#30 := rfl
@[simp] theorem resetBlock_ldst (s : State) : (resetBlock s).ldst = 0#32 := rfl
@[simp] theorem resetBlock_work (s : State) : (resetBlock s).work = EngineWork.reset := rfl
@[simp] theorem resetBlock_mem (s : State) : (resetBlock s).mem = s.mem := rfl
@[simp] theorem resetBlock_base (s : State) : (resetBlock s).base = s.base := rfl
@[simp] theorem resetBlock_devices (s : State) : (resetBlock s).devices = s.devices := rfl
@[simp] theorem resetBlock_noRead (s : State) : (resetBlock s).noRead = s.noRead := rfl
@[simp] theorem resetBlock_noWrite (s : State) : (resetBlock s).noWrite = s.noWrite := rfl
@[simp] theorem resetBlock_aborted (s : State) : (resetBlock s).aborted = s.aborted := rfl
@[simp] theorem resetBlock_inbox (s : State) : (resetBlock s).inbox = s.inbox := rfl
@[simp] theorem resetBlock_reads (s : State) : (resetBlock s).reads = s.reads := rfl
@[simp] theorem resetBlock_freeCount (s : State) : (resetBlock s).freeCount = s.freeCount := rfl

end Sys2Proof.Machine
end

