-- ==== Sys2Proof/Laws/Memory.lean ====
section
/-! SUPPORT. Memory: a read after a write, and that every memory operation keeps the canonical form. -/

namespace Sys2Proof.Machine

open Sys2Proof

theorem Memory.read_write_same (m : Memory) (a : Nat) (v : Byte) : Memory.read (Memory.write m a v) a = some v := by
  induction m with
  | nil => simp [Memory.write, Memory.read]
  | cons c m ih =>
    obtain ⟨k, u⟩ := c
    simp only [Memory.write]
    split
    · simp [Memory.read]
    · split
      · simp [Memory.read]
      · rename_i h
        simp [Memory.read, h, ih]

theorem Memory.read_write_other (m : Memory) (a b : Nat) (v : Byte) (h : b ≠ a) :
    Memory.read (Memory.write m a v) b = Memory.read m b := by
  induction m with
  | nil => simp [Memory.write, Memory.read, h]
  | cons c m ih =>
    obtain ⟨k, u⟩ := c
    simp only [Memory.write]
    split
    · simp [Memory.read, h]
    · split
      · rename_i hk
        subst hk
        simp [Memory.read, h]
      · simp [Memory.read, ih]

theorem Memory.risingFrom_write (m : Memory) (lo a : Nat) (v : Byte) (h : Memory.risingFrom lo m = true)
    (hlo : lo ≤ a) (ha : a < 2 ^ 32) : Memory.risingFrom lo (Memory.write m a v) = true := by
  induction m generalizing lo with
  | nil => simpa [Memory.write, Memory.risingFrom, hlo] using ha
  | cons c m ih =>
    obtain ⟨k, u⟩ := c
    simp only [Memory.risingFrom, Bool.and_eq_true, decide_eq_true_eq] at h
    obtain ⟨⟨h1, h2⟩, h3⟩ := h
    simp only [Memory.write]
    split
    · rename_i hlt
      simp only [Memory.risingFrom, Bool.and_eq_true, decide_eq_true_eq]
      exact ⟨⟨hlo, ha⟩, ⟨hlt, h2⟩, h3⟩
    · split
      · rename_i heq
        subst heq
        simp only [Memory.risingFrom, Bool.and_eq_true, decide_eq_true_eq]
        exact ⟨⟨hlo, ha⟩, h3⟩
      · simp only [Memory.risingFrom, Bool.and_eq_true, decide_eq_true_eq]
        exact ⟨⟨h1, h2⟩, ih (k + 1) h3 (by omega)⟩

theorem Memory.wf_write (m : Memory) (a : Addr) (v : Byte) (h : Memory.wf m = true) :
    Memory.wf (Memory.write m a.toNat v) = true :=
  Memory.risingFrom_write m 0 a.toNat v h (Nat.zero_le _) a.isLt

theorem wf_writeBytes (bs : List Byte) (m : Memory) (a : Addr) (h : Memory.wf m = true) :
    Memory.wf (writeBytes m a bs) = true := by
  induction bs generalizing m a with
  | nil => exact h
  | cons b bs ih => exact ih _ _ (Memory.wf_write m a b h)

theorem wf_scramble (w : Window) (s : State) (h : Memory.wf s.mem = true) : Memory.wf (scramble w s).mem = true :=
  wf_writeBytes _ _ _ h

/-- A byte that is none of a sequence's reads as before the sequence was written. -/
theorem read_writeBytes_outside (bs : List Byte) (m : Memory) (a x : Addr)
    (h : (⟨a, bs.length⟩ : Window).has x = false) (hlen : bs.length ≤ 2 ^ 32) :
    Memory.read (writeBytes m a bs) x.toNat = Memory.read m x.toNat := by
  induction bs generalizing m a with
  | nil => rfl
  | cons b bs ih =>
    simp only [Window.has, List.length_cons, decide_eq_false_iff_not, Nat.not_lt] at h hlen
    rw [writeBytes, ih]
    · apply Memory.read_write_other
      intro e
      have : x = a := BitVec.eq_of_toNat_eq e
      subst this
      simp at h
    · simp only [Window.has, decide_eq_false_iff_not, Nat.not_lt]
      bv_omega
    · omega

/-- Element j of a sequence just written reads back. -/
theorem read_writeBytes_inside (bs : List Byte) (m : Memory) (a : Addr) (j : Nat) (v : Byte)
    (hv : bs[j]? = some v) (hlen : bs.length ≤ 2 ^ 32) :
    Memory.read (writeBytes m a bs) (a + BitVec.ofNat 32 j).toNat = some v := by
  induction bs generalizing m a j with
  | nil => simp at hv
  | cons b bs ih =>
    rw [writeBytes]
    simp only [List.length_cons] at hlen
    cases j with
    | zero =>
      simp only [List.getElem?_cons_zero, Option.some.injEq] at hv
      subst hv
      rw [show a + BitVec.ofNat 32 0 = a by simp, read_writeBytes_outside]
      · exact Memory.read_write_same _ _ _
      · simp only [Window.has, decide_eq_false_iff_not, Nat.not_lt]
        bv_omega
      · omega
    | succ j =>
      simp only [List.getElem?_cons_succ] at hv
      have := ih (Memory.write m a.toNat b) (a + 1#32) j hv (by omega)
      rw [show a + BitVec.ofNat 32 (j + 1) = a + 1#32 + BitVec.ofNat 32 j by bv_omega]
      exact this

theorem freeBytes_length (n count : Nat) : (freeBytes n count).length = count := by simp [freeBytes]

/-- Scrambling a window leaves every other byte alone. -/
theorem memByte_scramble_outside (w : Window) (s : State) (x : Addr) (h : w.has x = false) (hlen : w.len ≤ 2 ^ 32) :
    (scramble w s).memByte x = s.memByte x := by
  simp only [State.memByte, scramble_mem]
  rw [read_writeBytes_outside]
  · simpa [freeBytes_length] using h
  · simpa [freeBytes_length] using hlen

/-- Scrambling no byte changes no byte. -/
theorem memByte_scramble_empty (a x : Addr) (s : State) : (scramble ⟨a, 0⟩ s).memByte x = s.memByte x := by
  apply memByte_scramble_outside
  · simp [Window.has]
  · simp

end Sys2Proof.Machine
end

