-- ==== Sys2Proof/Laws/Windows.lean ====
section
/-! SUPPORT. Windows: the interval test of overlap is the set test, and what the windows of a command are. -/

namespace Sys2Proof.Machine

open Sys2Proof

/-- Two windows overlap exactly when they share an address (20_memory.md R71). -/
theorem Window.overlaps_iff (v w : Window) : v.overlaps w = true ↔ ∃ x, v.has x = true ∧ w.has x = true := by
  simp only [Window.overlaps, Window.has, Bool.and_eq_true, Bool.or_eq_true, decide_eq_true_eq]
  constructor
  · rintro ⟨⟨hv, hw⟩, h | h⟩
    · exact ⟨w.start, h, by simp; omega⟩
    · exact ⟨v.start, by simp; omega, h⟩
  · rintro ⟨x, hv, hw⟩
    have := v.start.isLt
    have := w.start.isLt
    refine ⟨⟨by omega, by omega⟩, ?_⟩
    by_cases h : (x - w.start).toNat ≤ (x - v.start).toNat
    · left; bv_omega
    · right; bv_omega

theorem anyOverlaps_iff (ws : List Window) (v : Window) :
    anyOverlaps ws v = true ↔ ∃ x, anyHas ws x = true ∧ v.has x = true := by
  simp only [anyOverlaps, anyHas, List.any_eq_true, Window.overlaps_iff]
  constructor
  · rintro ⟨w, hw, x, h1, h2⟩
    exact ⟨x, ⟨w, hw, h1⟩, h2⟩
  · rintro ⟨x, ⟨w, hw, h1⟩, h2⟩
    exact ⟨w, hw, x, h1, h2⟩

theorem Window.overlaps_empty (v : Window) (a : Addr) : v.overlaps ⟨a, 0⟩ = false := by simp [Window.overlaps]

theorem anyOverlaps_empty (ws : List Window) (a : Addr) : anyOverlaps ws ⟨a, 0⟩ = false := by
  simp [anyOverlaps, Window.overlaps_empty]

theorem encodedLength_lt (n : Nat) (h : n < 2 ^ 30) : encodedLength n < 2 ^ 32 := by
  unfold encodedLength
  omega

/-- A destination window never wraps onto itself (20_memory.md R63). -/
theorem dstWindow_len_lt (i : Instr) (s : State) : (dstWindow i s).len < 2 ^ 32 := by
  have h : s.count < 2 ^ 30 := s.llen.isLt
  cases i <;> simp only [dstWindow, encodedLength] <;> (try split) <;> (try dsimp only) <;> omega

theorem srcWindow_len_lt (i : Instr) (s : State) : (srcWindow i s).len < 2 ^ 32 := by
  have h : s.count < 2 ^ 30 := s.llen.isLt
  cases i <;> simp only [srcWindow] <;> (try split) <;> (try dsimp only) <;> omega

/-- ENC_LEN touches no memory, so no operand makes it UNDEFINED. -/
theorem undefinedCommand_encLen (s : State) : undefinedCommand .encLen s = none := by
  simp [undefinedCommand, srcWindow, dstWindow, Window.overlaps_empty, anyOverlaps_empty]

/-- Once the engine has worked, a command is UNDEFINED exactly when it was before. -/
theorem undefinedCommand_engineWorked (i : Instr) (s : State) :
    undefinedCommand i (engineWorked s) = undefinedCommand i s := by
  cases i <;> rfl

end Sys2Proof.Machine
end

