-- ==== Sys2Proof/Laws/Bus.lean ====
section
/-! SUPPORT. The engine's bus accesses: when all reads or all writes of a sequence succeed, and what they give. -/

namespace Sys2Proof.Machine

open Sys2Proof

theorem engineReads_length (s : State) (n : Nat) (a : Addr) : (engineReads s a n).length = n := by
  induction n generalizing a with
  | zero => rfl
  | succ n ih => simp [engineReads, ih]

/-- Element j of the reads is the read of address a + j. -/
theorem engineReads_getElem? (s : State) (n : Nat) (a : Addr) (j : Nat) (h : j < n) :
    (engineReads s a n)[j]? = some (engineRead s (a + BitVec.ofNat 32 j)) := by
  induction n generalizing a j with
  | zero => omega
  | succ n ih =>
    cases j with
    | zero => simp [engineReads]
    | succ j =>
      simp only [engineReads, List.getElem?_cons_succ]
      rw [ih (a + 1#32) j (by omega)]
      congr 2
      bv_omega

/-- With no refused address the reads give memory's bytes, in order. -/
theorem engineReads_answered (s : State) (n : Nat) (a : Addr)
    (h : ∀ j, j < n → anyHas s.noRead (a + BitVec.ofNat 32 j) = false) :
    allRead (engineReads s a n) = some ((List.range n).map fun j => s.memByte (a + BitVec.ofNat 32 j)) := by
  induction n generalizing a with
  | zero => rfl
  | succ n ih =>
    have h0 : anyHas s.noRead a = false := by simpa using h 0 (by omega)
    have e : ∀ j, a + 1#32 + BitVec.ofNat 32 j = a + BitVec.ofNat 32 (j + 1) := fun j => by bv_omega
    have h1 := ih (a + 1#32) fun j hj => by rw [e]; exact h (j + 1) (by omega)
    simp only [engineReads, engineRead, h0, Bool.false_eq_true, ↓reduceIte, allRead, h1]
    simp only [e, List.range_succ_eq_map, List.map_cons, List.map_map, Option.some.injEq, List.cons.injEq]
    exact ⟨by simp, rfl⟩

/-- With a refused address the sequence is not read. -/
theorem allRead_none (rs : List (Option Byte)) : allRead rs = none ↔ none ∈ rs := by
  induction rs with
  | nil => simp [allRead]
  | cons r rs ih =>
    cases r with
    | none => simp [allRead]
    | some b =>
      simp only [allRead, List.mem_cons, reduceCtorEq, false_or, ← ih]
      cases allRead rs <;> simp

theorem allRead_some_length (rs : List (Option Byte)) (bs : List Byte) (h : allRead rs = some bs) :
    bs.length = rs.length := by
  induction rs generalizing bs with
  | nil => simp only [allRead, Option.some.injEq] at h; subst h; rfl
  | cons r rs ih =>
    cases r with
    | none => simp [allRead] at h
    | some b =>
      simp only [allRead] at h
      cases e : allRead rs with
      | none => simp [e] at h
      | some cs =>
        simp only [e, Option.some.injEq] at h
        subst h
        simp [ih cs e]

/-- The writes of a sequence, if none is refused, change memory and nothing else. -/
theorem engineWrites_some (bs : List Byte) (s t : State) (a : Addr) (h : engineWrites s a bs = some t) :
    t = { s with mem := writeBytes s.mem a bs } := by
  induction bs generalizing s a with
  | nil => simp only [engineWrites, Option.some.injEq] at h; subst h; rfl
  | cons b bs ih =>
    simp only [engineWrites, engineWrite] at h
    by_cases hn : anyHas s.noWrite a = true
    · simp [hn] at h
    · simp only [hn, Bool.false_eq_true, ↓reduceIte] at h
      rw [ih _ _ h]
      rfl

/-- With no refused address the writes of a sequence succeed. -/
theorem engineWrites_answered (bs : List Byte) (s : State) (a : Addr)
    (h : ∀ j, j < bs.length → anyHas s.noWrite (a + BitVec.ofNat 32 j) = false) :
    engineWrites s a bs = some { s with mem := writeBytes s.mem a bs } := by
  induction bs generalizing s a with
  | nil => rfl
  | cons b bs ih =>
    have h0 : anyHas s.noWrite a = false := by simpa using h 0 (by simp)
    simp only [engineWrites, engineWrite, h0, Bool.false_eq_true, ↓reduceIte]
    rw [ih]
    · rfl
    · intro j hj
      rw [show a + 1#32 + BitVec.ofNat 32 j = a + BitVec.ofNat 32 (j + 1) by bv_omega]
      exact h (j + 1) (by simp; omega)

/-- With a refused address some write of the sequence is a bus error. -/
theorem engineWrites_refused (bs : List Byte) (s : State) (a : Addr) (j : Nat) (hj : j < bs.length)
    (h : anyHas s.noWrite (a + BitVec.ofNat 32 j) = true) : engineWrites s a bs = none := by
  induction bs generalizing s a j with
  | nil => simp at hj
  | cons b bs ih =>
    simp only [engineWrites, engineWrite]
    by_cases h0 : anyHas s.noWrite a = true
    · simp [h0]
    · simp only [h0, Bool.false_eq_true, ↓reduceIte]
      cases j with
      | zero => simp [h0] at h
      | succ j =>
        apply ih _ _ j (by simpa using hj)
        rw [show a + 1#32 + BitVec.ofNat 32 j = a + BitVec.ofNat 32 (j + 1) by bv_omega]
        exact h

end Sys2Proof.Machine
end

