-- ==== Sys2Proof/Laws/Commands.lean ====
section
/-! SUPPORT. What an execution can do: one inversion lemma per command and per turn, cited instead of unfolding them. -/

namespace Sys2Proof.Machine

open Sys2Proof

/-- A guarded execution either refuses by the rule that makes the command UNDEFINED, or runs. -/
theorem whenDefined_next {i : Instr} {run : State → State} {s t : State} (h : whenDefined i run s = .next t) :
    undefinedCommand i s = none ∧ t = run (engineWorked s) := by
  unfold whenDefined at h
  cases e : undefinedCommand i s with
  | none => simp only [e, Host.Outcome.next.injEq] at h; exact ⟨rfl, h.symm⟩
  | some r => simp [e] at h

theorem whenDefined_eq (i : Instr) (run : State → State) (s : State) (h : undefinedCommand i s = none) :
    whenDefined i run s = .next (run (engineWorked s)) := by
  simp [whenDefined, h]

/-- ENCODE ends in one of two ways: BusError, or the text written and its length reported. -/
theorem encodeCommand_cases (s : State) :
    encodeCommand s = failCommand .encode .busError s ∨
      ∃ b, allRead (engineReads s s.lsrc s.count) = some b ∧
        encodeCommand s =
          complete (encodedLength s.count) { s with mem := writeBytes s.mem s.ldst (encodeBytes b) } := by
  unfold encodeCommand
  cases e : allRead (engineReads s s.lsrc s.count) with
  | none => exact .inl rfl
  | some b =>
    cases f : engineWrites s s.ldst (encodeBytes b) with
    | none => left; simp [f]
    | some u => right; exact ⟨b, rfl, by simp [f, engineWrites_some _ _ _ _ f]⟩

/-- DECODE ends with an error, or the decoded bytes written and counted. -/
theorem decodeCommand_cases (s : State) :
    (∃ kind u, decodeCommand s = failCommand .decode kind u ∧
        (u = s ∨ u = { s with freeCount := s.freeCount + 1 })) ∨
      ∃ t bytes, allRead (engineReads s s.lsrc s.count) = some t ∧ decodeText t = .ok bytes ∧ s.count % 4 = 0 ∧
        decodeCommand s = complete bytes.length { s with mem := writeBytes s.mem s.ldst bytes } := by
  unfold decodeCommand
  by_cases h4 : s.count % 4 = 0
  · simp only [h4, ne_eq, not_true_eq_false, ↓reduceIte]
    cases e : allRead (engineReads s s.lsrc s.count) with
    | none => exact .inl ⟨_, _, rfl, .inr rfl⟩
    | some t =>
      cases d : decodeText t with
      | err kind => exact .inl ⟨kind, s, by simp [d], .inl rfl⟩
      | ok bytes =>
        cases f : engineWrites s s.ldst bytes with
        | none => exact .inl ⟨.busError, s, by simp [d, f], .inl rfl⟩
        | some u => exact .inr ⟨t, bytes, rfl, d, trivial, by simp [d, f, engineWrites_some _ _ _ _ f]⟩
  · exact .inl ⟨.invalidLength, s, by simp [h4], .inl rfl⟩

/-- DEC_LEN ends with an error, or a count. -/
theorem decLenCommand_cases (s : State) :
    (∃ kind, decLenCommand s = failCommand .decLen kind s) ∨ ∃ n, decLenCommand s = complete n s := by
  unfold decLenCommand
  split
  · exact .inl ⟨_, rfl⟩
  · split
    · exact .inr ⟨_, rfl⟩
    · split
      · exact .inl ⟨_, rfl⟩
      · split
        · split
          · exact .inl ⟨_, rfl⟩
          · exact .inr ⟨_, rfl⟩
        · exact .inr ⟨_, rfl⟩

/-- A step is the turn it takes: a command runs, or a host or platform action has its outcome. -/
theorem step_next {s t : State} (h : step s = .next t) :
    turn s = .next t ∨ ∃ i u, turn s = .run i u ∧ exec i u = .next t := by
  unfold step at h
  cases e : turn s with
  | run i u => simp only [e] at h; exact .inr ⟨i, u, rfl, h⟩
  | next u => simp only [e, Host.Outcome.next.injEq] at h; exact .inl (by rw [h])
  | refused r => simp [e] at h

end Sys2Proof.Machine
end

