-- ==== Sys2Proof/Laws/HostAccess.lean ====
section
/-! SUPPORT. Register accesses as turns, the bytes of a sequence, and windows by the index of an element. -/

namespace Sys2Proof.Machine

open Sys2Proof

/-! ## Words and bytes -/

theorem tableWord_toNat (w : Word) : tableWord 32 w.toNat = w := by
  simp [tableWord, Nat.mod_eq_of_lt w.isLt]

theorem wordOfBytes_bytesOfWord (w : Word) :
    wordOfBytes (w.extractLsb' 0 8) (w.extractLsb' 8 8) (w.extractLsb' 16 8) (w.extractLsb' 24 8) = w := by
  apply BitVec.eq_of_getLsbD_eq
  intro k hk
  simp only [wordOfBytes, BitVec.getLsbD_append, BitVec.getLsbD_extractLsb']
  rcases (by omega : k < 8 ∨ (8 ≤ k ∧ k < 16) ∨ (16 ≤ k ∧ k < 24) ∨ 24 ≤ k) with h | h | h | h
  · simp [h]
  · simp [show ¬k < 8 by omega, show k - 8 < 8 by omega, show 8 + (k - 8) = k by omega]
  · simp [show ¬k < 8 by omega, show ¬k - 8 < 8 by omega, show k - 8 - 8 < 8 by omega,
      show 16 + (k - 8 - 8) = k by omega]
  · simp [show ¬k < 8 by omega, show ¬k - 8 < 8 by omega, show ¬k - 8 - 8 < 8 by omega,
      show k - 8 - 8 - 8 < 8 by omega, show 24 + (k - 8 - 8 - 8) = k by omega]

theorem bytesOfWord_wordOfBytes (b0 b1 b2 b3 : Byte) : bytesOfWord (wordOfBytes b0 b1 b2 b3) = [b0, b1, b2, b3] := by
  simp only [bytesOfWord, wordOfBytes, List.cons.injEq, and_true]
  refine ⟨?_, ?_, ?_, ?_⟩ <;> apply BitVec.eq_of_getLsbD_eq <;> intro k hk <;>
    simp only [BitVec.getLsbD_append, BitVec.getLsbD_extractLsb']
  · simp [hk]
  · simp [hk, show ¬8 + k < 8 by omega, show 8 + k - 8 = k by omega]
  · simp [hk, show ¬16 + k < 8 by omega, show ¬16 + k - 8 < 8 by omega, show 16 + k - 8 - 8 = k by omega]
  · simp [hk, show ¬24 + k < 8 by omega, show ¬24 + k - 8 < 8 by omega, show ¬24 + k - 8 - 8 < 8 by omega,
      show 24 + k - 8 - 8 - 8 = k by omega]

theorem tableBytes_word (w : Word) : tableBytes 32 w.toNat = bytesOfWord w := by
  simp only [tableBytes, bytesOfWord, Nat.mod_eq_of_lt w.isLt]
  simp only [show max 4 ((32 + 7) / 8) = 4 from rfl, List.range, List.range.loop, List.map, List.cons.injEq, and_true]
  refine ⟨?_, ?_, ?_, ?_⟩ <;> apply BitVec.eq_of_toNat_eq <;> simp [BitVec.extractLsb', Nat.shiftRight_eq_div_pow]

/-! ## Register accesses -/

theorem turn_withEvent (e : Event) (s : State) : turn (s.withEvent e) = deliver e s := rfl

theorem offsetOf_addrOf (s : State) (r : Reg) : s.offsetOf (s.addrOf r) = r.offset := by
  cases r <;> simp [State.offsetOf, State.addrOf, Reg.offset]

theorem touchesRegisters_addrOf (s : State) (r : Reg) : s.touchesRegisters (s.addrOf r) 4 = true := by
  have h := offsetOf_addrOf s r
  simp only [State.offsetOf] at h
  simp only [State.touchesRegisters, Window.overlaps, Window.has, State.registerWindow, Config.registerWindowBytes]
  simp only [h, ne_eq, decide_not, Bool.and_eq_true, Bool.or_eq_true, decide_eq_true_eq]
  exact ⟨⟨rfl, rfl⟩, .inl (by cases r <;> decide)⟩

/-- A 32-bit write at a register's address is a write of that register. -/
theorem turn_withWrite (s : State) (r : Reg) (w : Word) : turn (s.withWrite r w) = writeReg r w s := by
  rw [State.withWrite, turn_withEvent]
  simp only [HostLine.event, deliver, busWrite]
  rw [show (bytesOfWord w).length = 4 from rfl, touchesRegisters_addrOf, if_pos rfl]
  simp only [registerWrite, offsetOf_addrOf]
  rw [if_pos (show registerAccessWellFormed r.offset (bytesOfWord w).length = true by cases r <;> rfl),
    show Reg.at? r.offset = some r by cases r <;> rfl]
  simp only [bytesOfWord, wordOfBytes_bytesOfWord]

/-- A 32-bit read at a register's address returns that register. -/
theorem turn_withRead (s : State) (r : Reg) :
    turn (s.withRead r) = .next (keepRead (bytesOfWord (readReg r s)) s) := by
  rw [State.withRead, turn_withEvent]
  simp only [HostLine.event, deliver, busRead, touchesRegisters_addrOf, if_true, registerRead, offsetOf_addrOf]
  cases r <;> rfl

/-- A write that touches the window and is not refused is a write of some register. -/
theorem registerWrite_defined (s : State) (a : Addr) (bytes : List Byte)
    (h : ∀ q, registerWrite a bytes s ≠ .refused q) :
    ∃ r w, a = s.addrOf r ∧ bytes = bytesOfWord w ∧ registerWrite a bytes s = writeReg r w s := by
  generalize hw : registerWrite a bytes s = t at h
  unfold registerWrite at hw
  split at hw
  · split at hw
    · rename_i r b0 b1 b2 b3 hr _
      refine ⟨r, _, ?_, (bytesOfWord_wordOfBytes b0 b1 b2 b3).symm, hw.symm⟩
      have hoff : r.offset = s.offsetOf a := by
        simp only [Reg.at?] at hr
        simpa using List.find?_some hr
      rw [State.addrOf, hoff, State.offsetOf, BitVec.ofNat_toNat, BitVec.setWidth_eq, BitVec.add_comm,
        BitVec.sub_add_cancel]
    · exact absurd hw.symm (h _)
  · exact absurd hw.symm (h _)

/-! ## Elements of a window -/

theorem has_elementAddr (a : Addr) (n j : Nat) (h : j < n) : (⟨a, n⟩ : Window).has (elementAddr a j) = true := by
  have e : elementAddr a j - a = BitVec.ofNat 32 j := by rw [elementAddr, BitVec.add_comm, BitVec.add_sub_cancel]
  simp only [Window.has, e, BitVec.toNat_ofNat, decide_eq_true_eq]
  exact Nat.lt_of_le_of_lt (Nat.mod_le _ _) h

/-- The addresses of a window are those of its elements (20_memory.md R62, R63). -/
theorem window_has_iff (a : Addr) (n : Nat) (x : Addr) :
    (⟨a, n⟩ : Window).has x = true ↔ ∃ j, j < n ∧ x = elementAddr a j := by
  constructor
  · intro h
    refine ⟨(x - a).toNat, by simpa [Window.has] using h, ?_⟩
    rw [elementAddr, BitVec.ofNat_toNat, BitVec.setWidth_eq, BitVec.add_comm, BitVec.sub_add_cancel]
  · rintro ⟨j, hj, rfl⟩
    exact has_elementAddr a n j hj

theorem overlaps_false (v : Window) (a : Addr) (n : Nat) (h : ∀ k, k < n → v.has (elementAddr a k) = false) :
    v.overlaps ⟨a, n⟩ = false := by
  by_contra hc
  rw [Bool.not_eq_false, Window.overlaps_iff] at hc
  obtain ⟨x, h1, h2⟩ := hc
  obtain ⟨j, hj, rfl⟩ := (window_has_iff a n x).1 h2
  rw [h j hj] at h1
  cases h1

theorem anyOverlaps_false (ws : List Window) (a : Addr) (n : Nat)
    (h : ∀ k, k < n → anyHas ws (elementAddr a k) = false) : anyOverlaps ws ⟨a, n⟩ = false := by
  by_contra hc
  rw [Bool.not_eq_false, anyOverlaps_iff] at hc
  obtain ⟨x, h1, h2⟩ := hc
  obtain ⟨j, hj, rfl⟩ := (window_has_iff a n x).1 h2
  rw [h j hj] at h1
  cases h1

/-! ## The bytes of a sequence -/

theorem bytesAt_length (s : State) (a : Addr) (n : Nat) : (s.bytesAt a n).length = n := by simp [State.bytesAt]

theorem bytesAt_getElem? (s : State) (a : Addr) (n j : Nat) (h : j < n) :
    (s.bytesAt a n)[j]? = some (s.memByte (elementAddr a j)) := by
  simp [State.bytesAt, h]

/-- A sequence just written reads back. -/
theorem bytesAt_writeBytes (s t : State) (a : Addr) (bs : List Byte) (hlen : bs.length ≤ 2 ^ 32)
    (ht : t.mem = writeBytes s.mem a bs) : t.bytesAt a bs.length = bs := by
  apply List.ext_getElem?
  intro j
  by_cases hj : j < bs.length
  · rw [bytesAt_getElem? _ _ _ _ hj]
    have := read_writeBytes_inside bs s.mem a j bs[j] (by simp [hj]) hlen
    simp only [State.memByte, ht, elementAddr, this]
    simp [hj]
  · simp [State.bytesAt, hj]

/-- With no refused address the engine reads memory's bytes. -/
theorem allRead_answered (s : State) (a : Addr) (n : Nat) (h : ReadsAnswered s a n) :
    allRead (engineReads s a n) = some (s.bytesAt a n) := engineReads_answered s n a h

/-- With a refused address it does not read the sequence. -/
theorem allRead_refused (s : State) (a : Addr) (n j : Nat) (hj : j < n)
    (h : anyHas s.noRead (elementAddr a j) = true) : allRead (engineReads s a n) = none := by
  rw [allRead_none]
  have e := engineReads_getElem? s n a j hj
  rw [show engineRead s (a + BitVec.ofNat 32 j) = none by
    simp only [engineRead]; rw [if_pos (show anyHas s.noRead (a + BitVec.ofNat 32 j) = true from h)]] at e
  exact List.mem_of_getElem? e

end Sys2Proof.Machine
end

