-- ==== Sys2Proof/Laws/PerInstr.lean ====
section
/-! SUPPORT. Facts about every command as syntax, one lemma per constructor. -/

namespace Sys2Proof.Laws

open Sys2Proof

/-- The OP field of a command word is the command's opcode, whatever stands in the ignored bits. -/
theorem commandOp_commandWord (ignored : BitVec 29) (i : Instr) : commandOp (commandWord ignored i) = i.opcode := by
  simp only [commandOp, commandWord]
  ext k hk
  simp only [BitVec.getElem_extractLsb', Nat.zero_add, BitVec.getLsbD_append, hk]
  simp [BitVec.getLsbD_eq_getElem hk]

/-- Every word of a row is a well-formed command of that row: "Bits [31:3] of the command word are ignored for every OP"
(30_encoding.md R94). -/
def RowWords.Statement (i : Instr) : Prop :=
  i.wellFormed = true ∧ ∀ ignored, decodeWord (commandWord ignored i) = i

theorem RowWords.encode : RowWords.Statement .encode := ⟨rfl, fun g => by rw [decodeWord, commandOp_commandWord]; rfl⟩

theorem RowWords.decode : RowWords.Statement .decode := ⟨rfl, fun g => by rw [decodeWord, commandOp_commandWord]; rfl⟩

theorem RowWords.encLen : RowWords.Statement .encLen := ⟨rfl, fun g => by rw [decodeWord, commandOp_commandWord]; rfl⟩

theorem RowWords.decLen : RowWords.Statement .decLen := ⟨rfl, fun g => by rw [decodeWord, commandOp_commandWord]; rfl⟩

theorem RowWords.illegal0 : RowWords.Statement .illegal0 :=
  ⟨rfl, fun g => by rw [decodeWord, commandOp_commandWord]; rfl⟩

theorem RowWords.illegal5 : RowWords.Statement .illegal5 :=
  ⟨rfl, fun g => by rw [decodeWord, commandOp_commandWord]; rfl⟩

theorem RowWords.illegal6 : RowWords.Statement .illegal6 :=
  ⟨rfl, fun g => by rw [decodeWord, commandOp_commandWord]; rfl⟩

theorem RowWords.illegal7 : RowWords.Statement .illegal7 :=
  ⟨rfl, fun g => by rw [decodeWord, commandOp_commandWord]; rfl⟩

/-- The rows of the opcode table exclude each other on every word. -/
theorem opcodeTable_disjoint : opcodeTable.Pairwise fun r q => r.mask = q.mask ∧ r.pattern ≠ q.pattern := by decide

end Sys2Proof.Laws
end

