-- ==== Sys2Proof/Laws/Steps.lean ====
section
/-! SUPPORT. What a command's execution and a step can do, said once: provers cite these instead of unfolding exec, turn or
step. -/

namespace Sys2Proof.Machine

open Sys2Proof

/-- A command runs where it is defined; an illegal one always does. -/
theorem exec_defined (i : Instr) (s : State) (h : undefinedCommand i s = none) : ∃ t, exec i s = .next t := by
  cases i <;>
    first
      | exact ⟨_, whenDefined_eq _ _ _ h⟩
      | exact ⟨_, rfl⟩

/-- A legal command that is UNDEFINED is refused by the rule that makes it so. -/
theorem exec_undefined (i : Instr) (s : State) (r : Refusal) (hl : i.legal = true)
    (h : undefinedCommand i s = some r) : exec i s = .refused r := by
  cases i <;> first | (cases hl; done) | simp only [exec, execEncode, execDecode, execEncLen, execDecLen, whenDefined, h]

/-- Every execution that completes: an error, a count, or the illegal command, over memory that stays canonical. -/
theorem exec_cases {i : Instr} {s t : State} (h : exec i s = .next t) :
    (∃ kind u, t = failCommand i kind u ∧ SameBesidesResult s u ∧ u.mem = s.mem) ∨
      (∃ n u, t = complete n u ∧ SameBesidesResult s u ∧ (Memory.wf s.mem = true → Memory.wf u.mem = true)) ∨
        t = raiseError .illegalCommand s := by
  have hs : SameBesidesResult s (engineWorked s) := by simp [SameBesidesResult]
  cases i with
  | encode =>
    obtain ⟨-, rfl⟩ := whenDefined_next h
    rcases encodeCommand_cases (engineWorked s) with e | ⟨b, -, e⟩
    · exact .inl ⟨_, _, e, hs, rfl⟩
    · exact .inr (.inl ⟨_, _, e, hs, fun hm => wf_writeBytes _ _ _ hm⟩)
  | decode =>
    obtain ⟨-, rfl⟩ := whenDefined_next h
    rcases decodeCommand_cases (engineWorked s) with ⟨kind, u, e, hu⟩ | ⟨x, bytes, -, -, -, e⟩
    · refine .inl ⟨_, _, e, ?_, ?_⟩ <;> rcases hu with rfl | rfl <;> first | exact hs | rfl
    · exact .inr (.inl ⟨_, _, e, hs, fun hm => wf_writeBytes _ _ _ hm⟩)
  | encLen =>
    obtain ⟨-, rfl⟩ := whenDefined_next h
    exact .inr (.inl ⟨_, _, rfl, hs, fun hm => hm⟩)
  | decLen =>
    obtain ⟨-, rfl⟩ := whenDefined_next h
    rcases decLenCommand_cases (engineWorked s) with ⟨kind, e⟩ | ⟨n, e⟩
    · exact .inl ⟨_, _, e, hs, rfl⟩
    · exact .inr (.inl ⟨_, _, e, hs, fun hm => hm⟩)
  | illegal0 => cases h; exact .inr (.inr rfl)
  | illegal5 => cases h; exact .inr (.inr rfl)
  | illegal6 => cases h; exact .inr (.inr rfl)
  | illegal7 => cases h; exact .inr (.inr rfl)

/-- What a register write that is answered leaves: the four CMD and STATUS outcomes, or a write that changes none of the
fields the rules of R27 to R37 are about. -/
theorem writeReg_cases {r : Reg} {w : Word} {s t : State}
    (h : writeReg r w s = .next t ∨ ∃ i u, writeReg r w s = .run i u ∧ exec i u = .next t) :
    (r = .cmd ∧ s.busy = true ∧ t = setOverrun s) ∨
      (r = .cmd ∧ s.busy = false ∧ (decodeWord w).legal = true ∧ t = enterBusy (latch w s)) ∨
      (r = .cmd ∧ s.busy = false ∧ (decodeWord w).legal = false ∧ exec (decodeWord w) (latch w s) = .next t) ∨
      (r = .status ∧ t = writeStatus w s) ∨
      (t.busy = s.busy ∧ t.done = s.done ∧ t.ovr = s.ovr ∧ t.errCode = s.errCode ∧ t.result = s.result ∧
        t.lop = s.lop ∧ t.mem = s.mem ∧ t.inbox = s.inbox) := by
  cases r <;> simp only [writeReg] at h
  case cmd =>
    simp only [writeCmd] at h
    by_cases hb : s.busy = true
    · simp only [hb, if_true, Turn.next.injEq, reduceCtorEq, false_and, exists_false, or_false] at h
      exact .inl ⟨rfl, hb, h.symm⟩
    · simp only [hb, acceptCommand, Bool.false_eq_true, if_false] at h
      have hb : s.busy = false := by simpa using hb
      by_cases hl : (decodeWord w).legal = true
      · simp only [hl, if_true] at h
        cases hu : undefinedCommand (decodeWord w) (latch w s) with
        | none =>
          simp only [hu, Turn.next.injEq, reduceCtorEq, false_and, exists_false, or_false] at h
          exact .inr (.inl ⟨rfl, hb, hl, h.symm⟩)
        | some q => simp [hu] at h
      · simp only [hl, Bool.false_eq_true, if_false, Turn.run.injEq, reduceCtorEq, false_or] at h
        obtain ⟨i, u, ⟨rfl, rfl⟩, h⟩ := h
        exact .inr (.inr (.inl ⟨rfl, hb, by simpa using hl, h⟩))
  case status =>
    simp only [Turn.next.injEq, reduceCtorEq, false_and, exists_false, or_false] at h
    exact .inr (.inr (.inr (.inl ⟨rfl, h.symm⟩)))
  all_goals
    simp only [Turn.next.injEq, reduceCtorEq, false_and, exists_false, or_false] at h
    subst h
    exact .inr (.inr (.inr (.inr ⟨rfl, rfl, rfl, rfl, rfl, rfl, rfl, rfl⟩)))

/-- An execution leaves what is still to come. -/
theorem exec_inbox {i : Instr} {s t : State} (h : exec i s = .next t) : t.inbox = s.inbox := by
  rcases exec_cases h with ⟨kind, u, rfl, hs, -⟩ | ⟨n, u, rfl, hs, -⟩ | rfl
  · exact hs.2.2.2.2.2.2.2.2.2.2.2.2.2.2.1
  · exact hs.2.2.2.2.2.2.2.2.2.2.2.2.2.2.1
  · rfl

/-- So does a register write. -/
theorem writeReg_inbox {r : Reg} {w : Word} {s t : State}
    (h : writeReg r w s = .next t ∨ ∃ i u, writeReg r w s = .run i u ∧ exec i u = .next t) : t.inbox = s.inbox := by
  rcases writeReg_cases h with ⟨-, -, rfl⟩ | ⟨-, -, -, rfl⟩ | ⟨-, -, -, he⟩ | ⟨-, rfl⟩ | ⟨-, -, -, -, -, -, -, hi⟩
  · rfl
  · rfl
  · exact (exec_inbox he).trans rfl
  · simp only [writeStatus]
    split <;> split <;> rfl
  · exact hi

theorem engineTurn_cases {s t : State}
    (h : engineTurn s = .next t ∨ ∃ i u, engineTurn s = .run i u ∧ exec i u = .next t) :
    (s.busy = true ∧ exec (decodeOp s.lop) s = .next t) ∨ (s.busy = false ∧ t = s) := by
  simp only [engineTurn] at h
  by_cases hb : s.busy = true
  · simp only [hb, if_true, Turn.run.injEq, reduceCtorEq, false_or] at h
    obtain ⟨i, u, ⟨rfl, rfl⟩, h⟩ := h
    exact .inl ⟨hb, h⟩
  · simp only [hb, Bool.false_eq_true, if_false, Turn.next.injEq, reduceCtorEq, false_and, exists_false,
      or_false] at h
    exact .inr ⟨by simpa using hb, h.symm⟩

/-- What a turn can be: a register write, the engine's turn, a reset, something that leaves the block's registers alone, or
a refusal. -/
inductive TurnShape (s : State) : Turn → Prop where
  | write (q : Requester) (r : Reg) (w : Word)
      (h : s.inbox.head? = some (.busWrite q (s.addrOf r) (bytesOfWord w))) :
      TurnShape s (writeReg r w { s with inbox := s.inbox.tail })
  | engine (h : s.inbox = [] ∨ s.inbox.head? = some .engine) :
      TurnShape s (engineTurn { s with inbox := s.inbox.tail })
  | reset (h : s.inbox.head? = some .reset) : TurnShape s (.next (assertReset { s with inbox := s.inbox.tail }))
  | quiet (t : State)
      (h : t.busy = s.busy ∧ t.done = s.done ∧ t.ovr = s.ovr ∧ t.errCode = s.errCode ∧ t.result = s.result ∧
        t.lop = s.lop ∧ (Memory.wf s.mem = true → Memory.wf t.mem = true)) : TurnShape s (.next t)
  | refused (q : Refusal) : TurnShape s (.refused q)

theorem turn_shape (s : State) : TurnShape s (turn s) := by
  unfold turn
  cases hi : s.inbox with
  | nil =>
    have h := TurnShape.engine (s := s) (.inl hi)
    rwa [show ({ s with inbox := s.inbox.tail } : State) = s by
      rw [show s.inbox.tail = s.inbox by rw [hi]; rfl]] at h
  | cons e rest =>
    have hh : s.inbox.head? = some e := by rw [hi]; rfl
    have ht : ({ s with inbox := s.inbox.tail } : State) = { s with inbox := rest } := by rw [hi]; rfl
    generalize hu : ({ s with inbox := rest } : State) = u at ht
    simp only [hu]
    cases e with
    | busWrite q a bytes =>
      simp only [deliver, busWrite]
      split
      · by_cases hr : ∃ e, registerWrite a bytes u = .refused e
        · obtain ⟨e, he⟩ := hr
          rw [he]
          exact .refused e
        · obtain ⟨r, w, rfl, rfl, h⟩ := registerWrite_defined u a bytes fun e he => hr ⟨e, he⟩
          rw [h, ← ht]
          exact .write q r w (by rw [hh, ← hu]; rfl)
      · simp only [hostStore]
        split
        · exact .refused _
        · split
          · exact .refused _
          · subst hu
            exact .quiet _ ⟨rfl, rfl, rfl, rfl, rfl, rfl, fun h => wf_writeBytes _ _ _ h⟩
    | busRead a n =>
      simp only [deliver, busRead]
      split
      · simp only [registerRead]
        split
        · split
          · subst hu
            exact .quiet _ ⟨rfl, rfl, rfl, rfl, rfl, rfl, fun h => h⟩
          · exact .refused _
        · exact .refused _
      · simp only [hostLoad]
        split
        · exact .refused _
        · subst hu
          exact .quiet _ ⟨rfl, rfl, rfl, rfl, rfl, rfl, fun h => h⟩
    | poll k =>
      simp only [deliver, pollRound]
      split
      · split <;> (subst hu; exact .quiet _ ⟨rfl, rfl, rfl, rfl, rfl, rfl, fun h => h⟩)
      · subst hu
        exact .quiet _ ⟨rfl, rfl, rfl, rfl, rfl, rfl, fun h => h⟩
    | engine =>
      simp only [deliver]
      rw [← ht]
      exact .engine (.inr hh)
    | reset =>
      simp only [deliver]
      rw [← ht]
      exact .reset hh
    | lateWrite a =>
      simp only [deliver, lateWrite]
      split
      · split
        · exact .refused _
        · subst hu
          exact .quiet _ ⟨rfl, rfl, rfl, rfl, rfl, rfl, fun h => wf_scramble _ _ h⟩
      · subst hu
        exact .quiet _ ⟨rfl, rfl, rfl, rfl, rfl, rfl, fun h => h⟩
    | interconnect p q =>
      subst hu
      exact .quiet _ ⟨rfl, rfl, rfl, rfl, rfl, rfl, fun h => h⟩

end Sys2Proof.Machine
end

