-- ==== Sys2Proof/Laws/Script.lean ====
section
/-! SUPPORT. A host script runs a line a step, and the program has ended exactly when its last line has executed
(70_reset_and_hazards.md R232). A POLL's end is the obligation PollEndsWithTheCommand. -/

namespace Sys2Proof.Machine

open Sys2Proof

/-- A bus access: what a W or R line is on the bus (30_encoding.md R96). -/
inductive Event.IsAccess : Event → Prop where
  | write (q : Requester) (a : Addr) (bytes : List Byte) : Event.IsAccess (.busWrite q a bytes)
  | read (a : Addr) (n : Nat) : Event.IsAccess (.busRead a n)

/-- A step that answers a bus access takes that event and no other. -/
theorem step_access_inbox {s t : State} {e : Event} {rest : List Event} (he : e.IsAccess) (hi : s.inbox = e :: rest)
    (h : step s = .next t) : t.inbox = rest := by
  have hd := step_next h
  simp only [turn, hi] at hd
  generalize hu : ({ s with inbox := rest } : State) = u at hd
  have hr : u.inbox = rest := by rw [← hu]
  rw [← hr]
  cases he with
  | write q a bytes =>
    simp only [deliver, busWrite] at hd
    split at hd
    · by_cases hw : ∃ x, registerWrite a bytes u = .refused x
      · obtain ⟨x, hx⟩ := hw
        simp [hx] at hd
      · obtain ⟨r, w, -, -, e⟩ := registerWrite_defined u a bytes fun x hx => hw ⟨x, hx⟩
        rw [e] at hd
        exact writeReg_inbox hd
    · simp only [hostStore] at hd
      split at hd
      · simp at hd
      · split at hd
        · simp at hd
        · simp only [Turn.next.injEq, reduceCtorEq, false_and, exists_false, or_false] at hd
          rw [← hd]
  | read a n =>
    simp only [deliver, busRead] at hd
    split at hd
    · simp only [registerRead] at hd
      split at hd
      · split at hd
        · simp only [Turn.next.injEq, reduceCtorEq, false_and, exists_false, or_false] at hd
          rw [← hd]
          rfl
        · simp at hd
      · simp at hd
    · simp only [hostLoad] at hd
      split at hd
      · simp at hd
      · simp only [Turn.next.injEq, reduceCtorEq, false_and, exists_false, or_false] at hd
        rw [← hd]
        rfl

/-- k steps of bus accesses take the first k of them. -/
theorem run_accesses_inbox (es : List Event) (s t : State) (k : Nat) (hi : s.inbox = es) (he : ∀ e ∈ es, e.IsAccess)
    (hk : k ≤ es.length) (h : Sys2Proof.core.run k s = .next t) : t.inbox = es.drop k := by
  induction k generalizing es s with
  | zero =>
    cases h
    exact hi
  | succ k ih =>
    cases es with
    | nil => simp at hk
    | cons e es =>
      simp only [Host.Core.run, Sys2Proof.core] at h
      cases hs : step s with
      | fault r => simp [hs] at h
      | refused r => simp [hs] at h
      | next u =>
        simp only [hs] at h
        exact ih es u (step_access_inbox (he e (by simp)) hi hs) (fun x hx => he x (by simp [hx]))
          (by simpa using hk) h

/-- A program of W and R lines has ended exactly when its last line has executed, whether or not the command it started
still executes (70_reset_and_hazards.md R232). -/
theorem ended_iff_last_line_executed (s t : State) (lines : List HostLine) (k : Nat) (hi : s.inbox = [])
    (hp : ∀ l ∈ lines, ∀ n, l ≠ .poll n) (hk : k ≤ lines.length)
    (h : Sys2Proof.core.run k (s.withScript lines) = .next t) : t.ended = true ↔ k = lines.length := by
  have hl : ∀ l ∈ lines, (HostLine.event s l).IsAccess ∧ (HostLine.event s l).isHostLine = true := by
    intro l hm
    cases l with
    | write r v => exact ⟨.write _ _ _, rfl⟩
    | read r => exact ⟨.read _ _, rfl⟩
    | poll n => exact absurd rfl (hp _ hm n)
  have hd := run_accesses_inbox (lines.map (HostLine.event s)) (s.withScript lines) t k (by simp [State.withScript, hi])
    (by
      intro e hm
      obtain ⟨l, h1, rfl⟩ := List.mem_map.1 hm
      exact (hl l h1).1)
    (by simpa using hk) h
  simp only [State.ended, hd, ← List.map_drop, Bool.not_eq_true', List.any_eq_false, List.mem_map]
  constructor
  · intro hn
    by_contra hne
    have hlt : k < lines.length := by omega
    refine hn (HostLine.event s lines[k]) ⟨lines[k], ?_, rfl⟩ (hl _ (List.getElem_mem hlt)).2
    exact List.mem_of_getElem? (i := 0) (by simp [hlt])
  · rintro rfl
    simp

end Sys2Proof.Machine
end

