-- ==== Sys2Proof/Laws/Text.lean ====
section
/-! SUPPORT. Texts: the length of an encoding, and the errors and bytes of a text group by group. -/

namespace Sys2Proof.Machine

open Sys2Proof

theorem encodeBytes_length (b : List Byte) : (encodeBytes b).length = encodedLength b.length := by
  induction b using encodeBytes.induct with
  | case1 b0 b1 b2 rest ih => simp [encodeBytes, encodeGroup, ih, encodedLength]; omega
  | case2 b0 b1 => simp [encodeBytes, tail2, encodedLength]
  | case3 b0 => simp [encodeBytes, tail1, encodedLength]
  | case4 => rfl

/-- Only the symbol at position 3 of a group looks at the one before it. -/
theorem symbolErrors_before (groups i : Nat) (before : Option SymbolClass) (cs : List (Option SymbolClass))
    (h : i % 4 ≠ 3) : symbolErrors groups i before cs = symbolErrors groups i none cs := by
  cases cs with
  | nil => rfl
  | cons x cs =>
    cases x with
    | none => rfl
    | some c => cases c <;> simp [symbolErrors, symbolError, h]

/-- The errors of a text are those of its parts, cut between two groups. -/
theorem symbolErrors_append (groups i : Nat) (before : Option SymbolClass) (cs ds : List (Option SymbolClass))
    (h : (i + cs.length) % 4 ≠ 3) :
    symbolErrors groups i before (cs ++ ds) =
      symbolErrors groups i before cs ++ symbolErrors groups (i + cs.length) none ds := by
  induction cs generalizing i before with
  | nil =>
    simp only [List.nil_append, List.length_nil, Nat.add_zero] at *
    rw [symbolErrors_before _ _ _ _ h]
    rfl
  | cons x cs ih =>
    have e : i + (x :: cs).length = i + 1 + cs.length := by simp only [List.length_cons]; omega
    rw [e] at h ⊢
    cases x with
    | none => simp only [List.cons_append, symbolErrors]; exact ih _ _ h
    | some c =>
      simp only [List.cons_append, symbolErrors]
      rw [ih _ _ h]
      cases symbolError groups i before c <;> simp

/-- The groups without an error: four values, or a final group with one or two `=` at its end. -/
theorem symbolErrors_group (groups i : Nat) (c0 c1 c2 c3 : SymbolClass) (hi : i % 4 = 0) :
    symbolErrors groups i none [some c0, some c1, some c2, some c3] = [] ↔
      (∃ v0 v1, c0 = .val v0 ∧ c1 = .val v1) ∧
        ((∃ v2 v3, c2 = .val v2 ∧ c3 = .val v3) ∨
          (i / 4 = groups - 1 ∧ ((∃ v2, c2 = .val v2 ∧ c3 = .pad) ∨ (c2 = .pad ∧ c3 = .pad)))) := by
  have m1 : (i + 1) % 4 = 1 := by omega
  have m2 : (i + 1 + 1) % 4 = 2 := by omega
  have m3 : (i + 1 + 1 + 1) % 4 = 3 := by omega
  have d2 : (i + 1 + 1) / 4 = i / 4 := by omega
  have d3 : (i + 1 + 1 + 1) / 4 = i / 4 := by omega
  by_cases hg : i / 4 = groups - 1 <;> cases c0 <;> cases c1 <;> cases c2 <;> cases c3 <;>
    simp [symbolErrors, symbolError, hi, m1, m2, m3, d2, d3, hg]

theorem packGroups_append (cs ds : List SymbolClass) (h : cs.length % 4 = 0) :
    packGroups (cs ++ ds) = packGroups cs ++ packGroups ds := by
  match cs, h with
  | [], _ => rfl
  | [_], h => simp at h
  | [_, _], h => simp at h
  | [_, _, _], h => simp at h
  | _ :: _ :: _ :: _ :: rest, h =>
    simp only [List.cons_append, packGroups, List.append_assoc]
    rw [packGroups_append rest ds (by simp only [List.length_cons] at h; omega)]

theorem decodeText_err_iff (t : List Byte) (h : t.length % 4 = 0) (kind : ErrorKind) :
    decodeText t = .err kind ↔
      (symbolErrors (t.length / 4) 0 none (t.map fun b => some (decodeTable b))).head? = some kind := by
  simp only [decodeText, h, ne_eq, not_true, if_false]
  cases symbolErrors (t.length / 4) 0 none (t.map fun b => some (decodeTable b)) <;> simp

theorem decodeText_ok_iff (t bytes : List Byte) (h : t.length % 4 = 0) :
    decodeText t = .ok bytes ↔
      symbolErrors (t.length / 4) 0 none (t.map fun b => some (decodeTable b)) = [] ∧
        packGroups (t.map decodeTable) = bytes := by
  simp only [decodeText, h, ne_eq, not_true, if_false]
  cases symbolErrors (t.length / 4) 0 none (t.map fun b => some (decodeTable b)) <;> simp

end Sys2Proof.Machine
end

