-- ==== Sys2Proof/Tests/Slice0.lean ====
section
/-! SUPPORT. The smoke test of WellFormed, command words written out bit by bit, a few vectors of spec/95_test_vectors.md,
and a witness for every obligation that has hypotheses. -/

namespace Sys2Proof.Tests

open Sys2Proof Sys2Proof.Machine

/-! ## Helpers -/

/-- Bytes at consecutive addresses from `a`. -/
def cells (a : Nat) (bs : List Byte) : Memory := bs.zipIdx.map fun p => (a + p.2, p.1)

/-- The engine about to run OP `op` over `text` at 0x1000, with its destination at 0x2000. -/
def ready (op : BitVec 3) (text : List Byte) : State :=
  { State.reset with
    busy := true, lop := op, lsrc := 0x1000#32, llen := BitVec.ofNat 30 text.length, ldst := 0x2000#32,
    mem := cells 0x1000 text }

/-- The outcome is a next state with this property. -/
def after (o : Host.Outcome State Fault Refusal) (p : State → Bool) : Bool :=
  match o with
  | .next t => p t
  | .fault _ => false
  | .refused _ => false

/-- It ended with this code, count, and bytes from 0x2000. -/
def ends (o : Host.Outcome State Fault Refusal) (code : BitVec 4) (count : Word) (out : List Byte) : Bool :=
  after o fun t =>
    t.done && !t.busy && t.errCode == code && t.result == count && t.bytesAt 0x2000#32 out.length == out

/-- "TWFu" -/
def textTWFu : List Byte := [0x54#8, 0x57#8, 0x46#8, 0x75#8]

/-- "Zg==" -/
def textZg : List Byte := [0x5A#8, 0x67#8, 0x3D#8, 0x3D#8]

/-- "Zg=a" -/
def textZgPad : List Byte := [0x5A#8, 0x67#8, 0x3D#8, 0x61#8]

/-! ## WellFormed: each check refuses an ill-formed term -/

/-- Bits [31:3] should be 0 (30_encoding.md R91). -/
theorem test_noncanonical_word_refused : canonicalCommandWord 0xFFFFFFF9#32 = false := by decide

/-- A 16-bit access, an access at offset 2, an access past the window (10_state.md R22, R23). -/
theorem test_register_access_refused :
    registerAccessWellFormed 0 2 = false ∧ registerAccessWellFormed 2 4 = false ∧
    registerAccessWellFormed 0x20 4 = false ∧ registerAccessWellFormed 0x1C 4 = true := by decide

/-- Every command is well formed (30_encoding.md R94). -/
theorem test_commands_well_formed (i : Instr) : i.wellFormed = true := by cases i <;> rfl

/-- Fewer than four bus bytes are rejected by name (30_encoding.md R90). -/
theorem test_short_word_rejected : decodeBytes [0x01#8, 0x00#8, 0x00#8] = .shortWord 3 := by decide

/-! ## Decoding: OP in bits [2:0], bus bytes little-endian (30_encoding.md R91, R92, 10_state.md R23) -/

theorem test_decode_encode : decodeBytes [0b00000001#8, 0x00#8, 0x00#8, 0x00#8] = .command .encode [] := by decide

theorem test_decode_decode : decodeBytes [0b00000010#8, 0x00#8, 0x00#8, 0x00#8] = .command .decode [] := by decide

theorem test_decode_encLen : decodeBytes [0b00000011#8, 0x00#8, 0x00#8, 0x00#8] = .command .encLen [] := by decide

theorem test_decode_decLen : decodeBytes [0b00000100#8, 0x00#8, 0x00#8, 0x00#8] = .command .decLen [] := by decide

theorem test_decode_illegal0 : decodeBytes [0b00000000#8, 0x00#8, 0x00#8, 0x00#8] = .command .illegal0 [] := by decide

theorem test_decode_illegal5 : decodeBytes [0b00000101#8, 0x00#8, 0x00#8, 0x00#8] = .command .illegal5 [] := by decide

theorem test_decode_illegal6 : decodeBytes [0b00000110#8, 0x00#8, 0x00#8, 0x00#8] = .command .illegal6 [] := by decide

theorem test_decode_illegal7 : decodeBytes [0b00000111#8, 0x00#8, 0x00#8, 0x00#8] = .command .illegal7 [] := by decide

/-- The ignored bits of the word set, in its first and its last byte. -/
theorem test_decode_ignored_bits :
    decodeBytes [0b11111001#8, 0xFF#8, 0xFF#8, 0xFF#8] = .command .encode [] ∧
    decodeTableWord 32 0x80000004 = some .decLen := by decide

/-- The alphabet, as RFC 4648 orders it and 10_state.md R40 lists it. -/
theorem test_alphabet :
    (List.range 64).map (fun v => (encodeTable (BitVec.ofNat 6 v)).toNat) =
      "ABCDEFGHIJKLMNOPQRSTUVWXYZabcdefghijklmnopqrstuvwxyz0123456789+/".toList.map Char.toNat := by decide

/-! ## One step on a small state (95_test_vectors.md) -/

/-- Section 2.3: "Man" becomes "TWFu". -/
theorem test_encode_man :
    ends (step (ready 1#3 [0x4D#8, 0x61#8, 0x6E#8])) 0#4 4#32 textTWFu = true := by decide

/-- Section 2.3, corner: the source wraps past 0xFFFFFFFF. -/
theorem test_encode_wraps :
    ends
      (step
        { ready 1#3 [] with
          lsrc := 0xFFFFFFFE#32, llen := 3#30, mem := [(0, 0x6E#8), (0xFFFFFFFE, 0x4D#8), (0xFFFFFFFF, 0x61#8)] })
      0#4 4#32 textTWFu = true := by decide

/-- Section 2.4: "Zm9vYg==" becomes 66 6F 6F 62, and DW[4] keeps its byte. -/
theorem test_decode_keeps_rest :
    ends
      (step
        { ready 2#3 [0x5A#8, 0x6D#8, 0x39#8, 0x76#8, 0x59#8, 0x67#8, 0x3D#8, 0x3D#8] with
          mem := cells 0x1000 [0x5A#8, 0x6D#8, 0x39#8, 0x76#8, 0x59#8, 0x67#8, 0x3D#8, 0x3D#8] ++ [(0x2004, 0x99#8)] })
      0#4 4#32 [0x66#8, 0x6F#8, 0x6F#8, 0x62#8, 0x99#8] = true := by decide

/-- Section 2.5: "aa=!" is InvalidCharacter, though `=` is followed by a non-`=`. -/
theorem test_decode_character_after_pad :
    ends (step (ready 2#3 [0x61#8, 0x61#8, 0x3D#8, 0x21#8])) 2#4 0#32 [] = true := by decide

/-- Section 2.1: LLEN 5 gives 8. -/
theorem test_encLen_five : ends (step { ready 3#3 [] with llen := 5#30 }) 0#4 8#32 [] = true := by decide

/-- Section 2.1: LLEN 2^30 - 1 gives 0x55555554. -/
theorem test_encLen_largest :
    ends (step { ready 3#3 [] with llen := 0x3FFFFFFF#30 }) 0#4 0x55555554#32 [] = true := by decide

/-- Section 2.2: "ab=c" gives 3. -/
theorem test_decLen_unvalidated :
    ends (step (ready 4#3 [0x61#8, 0x62#8, 0x3D#8, 0x63#8])) 0#4 3#32 [] = true := by decide

/-- Section 2.2: "Zg==" with the byte at index 3 refused is BusError. -/
theorem test_decLen_refused :
    ends (step { ready 4#3 textZg with noRead := [⟨0x1003#32, 1⟩] }) 5#4 0#32 [] = true := by decide

/-- 60_exceptions.md R196 through a CMD write while IDLE: OP 0 with ignored bits set. -/
theorem test_illegal0_write :
    ends (step (State.reset.withWrite .cmd 0xFFFFFFF8#32)) 6#4 0#32 [] = true := by decide

theorem test_illegal5_write : ends (step (State.reset.withWrite .cmd 5#32)) 6#4 0#32 [] = true := by decide

theorem test_illegal6_write : ends (step (State.reset.withWrite .cmd 6#32)) 6#4 0#32 [] = true := by decide

theorem test_illegal7_write : ends (step (State.reset.withWrite .cmd 7#32)) 6#4 0#32 [] = true := by decide

/-- 70_reset_and_hazards.md R232: a program whose last line is a CMD write has ended though the command still executes, and
one whose POLL still reads BUSY has not, nor does an event of another agent keep it from ending. -/
theorem test_program_end :
    after (step (State.withWrite .cmd 3#32 State.reset)) (fun t => t.ended && !t.commandEnded) = true ∧
    after (step ((ready 3#3 []).withEvent (.poll 0))) (fun t => !t.ended) = true ∧
    (State.reset.withEvent (.busWrite .other 0x1000#32 [0x00#8])).ended = true := by decide

/-- 42_decode.md R159: of "Zg=a" with the `=` refused no error of the `a` can be reported, so it is BusError. -/
theorem test_decode_refused_before_last :
    ends (step { ready 2#3 textZgPad with noRead := [⟨0x1002#32, 1⟩] }) 5#4 0#32 [] = true := by decide

/-- 10_state.md R26: STATUS after an error completion with OVR set reads DONE, ERR and OVR. -/
theorem test_status_word :
    State.statusWord { State.reset with done := true, ovr := true, errCode := 2#4 } = 0b1110#32 := by decide

/-- 20_memory.md R71: LSRC = LDST is refused (95_test_vectors.md section 2.3, corner). -/
theorem test_overlap_refused :
    (match step { ready 1#3 [0x4D#8, 0x61#8, 0x6E#8] with ldst := 0x1000#32 } with
      | .refused .overlappingWindows => true
      | _ => false) = true := by decide

/-! ## Witnesses: a concrete state and operands that meet the hypotheses of each obligation -/

theorem witness_DecodeOfEncodeIsTheCommand : Instr.wellFormed .illegal7 = true := by decide

theorem witness_IgnoredBitsChangeNothing : commandOp 0xFFFFFFF9#32 = commandOp 0x00000001#32 := by decide

/-- One witness for each of the five clauses. -/
theorem witness_StepRunsTheDecodedCommand :
    ((ready 4#3 textZg).busy = true ∧ (ready 4#3 textZg).inbox = []) ∧ (ready 1#3 []).busy = true ∧
    (State.reset.busy = false ∧ (decodeWord 7#32).legal = false) ∧ (decodeWord 4#32).legal = true ∧
    (decodeWord 5#32).legal = false := by decide

theorem witness_ResetWhileBusyAborts : (ready 1#3 textZg).busy = true ∧ State.reset.busy = false := by decide

/-- A narrow access at the first register, one at offset 2, one over the end, one that begins before the window. -/
theorem witness_OtherRegisterAccessesAreRefused :
    (State.reset.registerWindow.has (elementAddr 0x40000000#32 0) = true ∧ 1 ≠ 4) ∧
    (State.reset.registerWindow.has (elementAddr 0x40000002#32 0) = true ∧
      State.reset.offsetOf 0x40000002#32 % 4 ≠ 0) ∧
    (State.reset.registerWindow.has (elementAddr 0x4000001F#32 0) = true ∧
      State.reset.offsetOf 0x4000001F#32 % 4 ≠ 0) ∧
    (State.reset.registerWindow.has (elementAddr 0x3FFFFFFD#32 3) = true ∧
      State.reset.offsetOf 0x3FFFFFFD#32 % 4 ≠ 0) := by decide

/-- The operands of a start: source and destination apart, and a length. -/
def operands : State :=
  { State.reset with srcAddr := 0x1000#32, srcLen := 4#30, dstAddr := 0x2000#32, mem := cells 0x1000 textZg }

theorem witness_AcceptedStartLatchesTheOperands :
    operands.busy = false ∧ (decodeWord 2#32).legal = true ∧ WindowsDefined (decodeWord 2#32) (latch 2#32 operands) := by
  decide

theorem witness_IllegalOpcodeCompletesAtOnce :
    State.reset.busy = false ∧ BitVec.extractLsb' 0 3 (0xFFFFFFF8#32) = 0#3 ∧
    BitVec.extractLsb' 0 3 (5#32) = 5#3 ∧ BitVec.extractLsb' 0 3 (6#32) = 6#3 ∧
    BitVec.extractLsb' 0 3 (7#32) = 7#3 := by decide

theorem witness_CommandWrittenWhileBusyIsDropped : (ready 1#3 []).busy = true := by decide

/-- The last byte of SW is the first of DW, latched and about to be latched. -/
theorem witness_OverlappingBuffersAreRefused :
    ((srcWindow .encode { ready 1#3 textZg with ldst := 0x1003#32 }).has 0x1003#32 = true ∧
      (dstWindow .encode { ready 1#3 textZg with ldst := 0x1003#32 }).has 0x1003#32 = true) ∧
    (operands.busy = false ∧ decodeWord 1#32 = .encode ∧
      (srcWindow .encode (latch 1#32 { operands with dstAddr := 0x1003#32 })).has 0x1003#32 = true ∧
      (dstWindow .encode (latch 1#32 { operands with dstAddr := 0x1003#32 })).has 0x1003#32 = true) := by decide

/-- A device at the last byte of SW; the first register of the block as the only byte of DW it holds. -/
theorem witness_SideEffectWindowsAreRefused :
    (anyHas { ready 1#3 textZg with devices := [⟨0x1003#32, 1⟩] }.devices 0x1003#32 = true ∧
      (srcWindow .encode { ready 1#3 textZg with devices := [⟨0x1003#32, 1⟩] }).has 0x1003#32 = true ∧
      ∀ b, (srcWindow .encode { ready 1#3 textZg with devices := [⟨0x1003#32, 1⟩] }).has b = true →
        (dstWindow .encode { ready 1#3 textZg with devices := [⟨0x1003#32, 1⟩] }).has b = false) ∧
    (State.registerWindow { operands with dstAddr := 0x3FFFFFFE#32 } |>.has 0x40000000#32) = true ∧
    (dstWindow .decode (latch 2#32 { operands with dstAddr := 0x3FFFFFFE#32 })).has 0x40000000#32 = true ∧
    ∀ b, (srcWindow .decode (latch 2#32 { operands with dstAddr := 0x3FFFFFFE#32 })).has b = true →
      (dstWindow .decode (latch 2#32 { operands with dstAddr := 0x3FFFFFFE#32 })).has b = false := by
  refine ⟨⟨by decide, by decide, fun b h => ?_⟩, by decide, by decide, fun b h => ?_⟩
  · replace h : decide ((b - 0x1000#32).toNat < 4) = true := h
    show decide ((b - 0x2000#32).toNat < 8) = false
    simp only [decide_eq_true_eq, decide_eq_false_iff_not] at *
    bv_omega
  · replace h : decide ((b - 0x1000#32).toNat < 4) = true := h
    show decide ((b - 0x3FFFFFFE#32).toNat < 3) = false
    simp only [decide_eq_true_eq, decide_eq_false_iff_not] at *
    bv_omega

/-- The largest length. -/
theorem witness_EncodedLengthFormsAgree : 2 ^ 30 - 1 < 2 ^ 30 := by decide

/-- One witness for each clause: a length of 1, no symbol, the last symbol refused, a value last, the last but one refused,
`=` last only, `=` twice. -/
theorem witness_DecLenFollowsItsPseudocode :
    (WindowsDefined .decLen (ready 4#3 [0x5A#8]) ∧ (ready 4#3 [0x5A#8]).llen.toNat % 4 ≠ 0) ∧
    (WindowsDefined .decLen (ready 4#3 []) ∧ (ready 4#3 []).llen.toNat = 0) ∧
    (WindowsDefined .decLen { ready 4#3 textZg with noRead := [⟨0x1003#32, 1⟩] } ∧
      anyHas { ready 4#3 textZg with noRead := [⟨0x1003#32, 1⟩] }.noRead (elementAddr 0x1000#32 3) = true) ∧
    (WindowsDefined .decLen (ready 4#3 textTWFu) ∧
      anyHas (ready 4#3 textTWFu).noRead (elementAddr 0x1000#32 3) = false ∧
      (ready 4#3 textTWFu).memByte (elementAddr 0x1000#32 3) ≠ 0x3D#8) ∧
    (WindowsDefined .decLen { ready 4#3 textZg with noRead := [⟨0x1002#32, 1⟩] } ∧
      (ready 4#3 textZg).memByte (elementAddr 0x1000#32 3) = 0x3D#8 ∧
      anyHas { ready 4#3 textZg with noRead := [⟨0x1002#32, 1⟩] }.noRead (elementAddr 0x1000#32 3) = false ∧
      anyHas { ready 4#3 textZg with noRead := [⟨0x1002#32, 1⟩] }.noRead (elementAddr 0x1000#32 2) = true) ∧
    (WindowsDefined .decLen (ready 4#3 [0x5A#8, 0x6D#8, 0x38#8, 0x3D#8]) ∧
      (ready 4#3 [0x5A#8, 0x6D#8, 0x38#8, 0x3D#8]).memByte (elementAddr 0x1000#32 3) = 0x3D#8 ∧
      anyHas (ready 4#3 [0x5A#8, 0x6D#8, 0x38#8, 0x3D#8]).noRead (elementAddr 0x1000#32 2) = false ∧
      (ready 4#3 [0x5A#8, 0x6D#8, 0x38#8, 0x3D#8]).memByte (elementAddr 0x1000#32 2) ≠ 0x3D#8) ∧
    (WindowsDefined .decLen (ready 4#3 textZg) ∧
      (ready 4#3 textZg).memByte (elementAddr 0x1000#32 3) = 0x3D#8 ∧
      (ready 4#3 textZg).memByte (elementAddr 0x1000#32 2) = 0x3D#8) := by decide

theorem witness_DecLenComputesDecodedLength :
    WindowsDefined .decLen (ready 4#3 textZg) ∧
    ReadsAnswered (ready 4#3 textZg) (ready 4#3 textZg).lsrc (ready 4#3 textZg).llen.toNat := by decide

theorem witness_DecodedLengthOfEncodingIsTheLength : [0x66#8, 0x6F#8].length < 2 ^ 30 := by decide

theorem witness_EncodeWritesTheText :
    WindowsDefined .encode (ready 1#3 [0x66#8]) ∧
    ReadsAnswered (ready 1#3 [0x66#8]) (ready 1#3 [0x66#8]).lsrc (ready 1#3 [0x66#8]).llen.toNat ∧
    WritesAnswered (ready 1#3 [0x66#8]) (ready 1#3 [0x66#8]).ldst
      (encodedLength (ready 1#3 [0x66#8]).llen.toNat) := by decide

/-- The last byte of SW refused; the last byte of DW refused. -/
theorem witness_EncodeReportsBusErrors :
    (WindowsDefined .encode { ready 1#3 textZg with noRead := [⟨0x1003#32, 1⟩] } ∧
      3 < (ready 1#3 textZg).llen.toNat ∧
      anyHas { ready 1#3 textZg with noRead := [⟨0x1003#32, 1⟩] }.noRead (elementAddr 0x1000#32 3) = true) ∧
    (WindowsDefined .encode { ready 1#3 textZg with noWrite := [⟨0x2007#32, 1⟩] } ∧
      7 < encodedLength (ready 1#3 textZg).llen.toNat ∧
      anyHas { ready 1#3 textZg with noWrite := [⟨0x2007#32, 1⟩] }.noWrite (elementAddr 0x2000#32 7) = true) := by
  decide

theorem witness_EncodeRaisesNoDataError : ∃ t, exec .encode (ready 1#3 [0x66#8]) = .next t := ⟨_, rfl⟩

theorem witness_EncodingPadsByLength :
    [0x66#8, 0x6F#8, 0x6F#8].length % 3 = 0 ∧ [0x66#8].length % 3 = 1 ∧ [0x66#8, 0x6F#8].length % 3 = 2 := by decide

theorem witness_EncodingIsInjective : encodeBytes [0x66#8, 0x6F#8] = encodeBytes [0x66#8, 0x6F#8] := rfl

theorem witness_DecodeWritesTheBytes :
    WindowsDefined .decode (ready 2#3 textZg) ∧
    ReadsAnswered (ready 2#3 textZg) (ready 2#3 textZg).lsrc (ready 2#3 textZg).llen.toNat ∧
    decodeText ((ready 2#3 textZg).bytesAt (ready 2#3 textZg).lsrc (ready 2#3 textZg).llen.toNat) = .ok [0x66#8] ∧
    WritesAnswered (ready 2#3 textZg) (ready 2#3 textZg).ldst [0x66#8].length := by decide

/-- A length of 1; "A===". -/
theorem witness_DecodeReportsTheTextsError :
    (WindowsDefined .decode (ready 2#3 [0x5A#8]) ∧ (ready 2#3 [0x5A#8]).llen.toNat % 4 ≠ 0) ∧
    (WindowsDefined .decode (ready 2#3 [0x41#8, 0x3D#8, 0x3D#8, 0x3D#8]) ∧
      (ready 2#3 [0x41#8, 0x3D#8, 0x3D#8, 0x3D#8]).llen.toNat % 4 = 0 ∧
      ReadsAnswered (ready 2#3 [0x41#8, 0x3D#8, 0x3D#8, 0x3D#8]) 0x1000#32 4 ∧
      decodeText ((ready 2#3 [0x41#8, 0x3D#8, 0x3D#8, 0x3D#8]).bytesAt 0x1000#32 4) = .err .invalidPadding) := by
  decide

/-- The last symbol refused; then line (d), on "Zg=a": the `=` before the offending `a` refused, and, with the first symbol
refused instead, both of them read. -/
theorem witness_DecodeWithARefusedReadReportsAnAdmittedError :
    (WindowsDefined .decode { ready 2#3 textZg with noRead := [⟨0x1003#32, 1⟩] } ∧
      (ready 2#3 textZg).llen.toNat % 4 = 0 ∧ 3 < (ready 2#3 textZg).llen.toNat ∧
      anyHas { ready 2#3 textZg with noRead := [⟨0x1003#32, 1⟩] }.noRead (elementAddr 0x1000#32 3) = true) ∧
    (WindowsDefined .decode { ready 2#3 textZgPad with noRead := [⟨0x1002#32, 1⟩] } ∧
      (ready 2#3 textZgPad).llen.toNat % 4 = 0 ∧ 2 < (ready 2#3 textZgPad).llen.toNat ∧
      anyHas { ready 2#3 textZgPad with noRead := [⟨0x1002#32, 1⟩] }.noRead (elementAddr 0x1000#32 2) = true ∧
      anyHas { ready 2#3 textZgPad with noRead := [⟨0x1002#32, 1⟩] }.noRead (elementAddr 0x1000#32 3) = false ∧
      errorAt ((ready 2#3 textZgPad).bytesAt 0x1000#32 4) 3 = some .invalidPadding) ∧
    (WindowsDefined .decode { ready 2#3 textZgPad with noRead := [⟨0x1000#32, 1⟩] } ∧
      0 < (ready 2#3 textZgPad).llen.toNat ∧
      anyHas { ready 2#3 textZgPad with noRead := [⟨0x1000#32, 1⟩] }.noRead (elementAddr 0x1000#32 0) = true ∧
      anyHas { ready 2#3 textZgPad with noRead := [⟨0x1000#32, 1⟩] }.noRead (elementAddr 0x1000#32 2) = false ∧
      anyHas { ready 2#3 textZgPad with noRead := [⟨0x1000#32, 1⟩] }.noRead (elementAddr 0x1000#32 3) = false ∧
      errorAt ((ready 2#3 textZgPad).bytesAt 0x1000#32 4) 3 = some .invalidPadding) := by decide

theorem witness_DecodeReportsRefusedWrites :
    WindowsDefined .decode { ready 2#3 textTWFu with noWrite := [⟨0x2002#32, 1⟩] } ∧
    ReadsAnswered { ready 2#3 textTWFu with noWrite := [⟨0x2002#32, 1⟩] } 0x1000#32 4 ∧
    decodeText ((ready 2#3 textTWFu).bytesAt 0x1000#32 4) = .ok [0x4D#8, 0x61#8, 0x6E#8] ∧
    2 < [0x4D#8, 0x61#8, 0x6E#8].length ∧
    anyHas { ready 2#3 textTWFu with noWrite := [⟨0x2002#32, 1⟩] }.noWrite (elementAddr 0x2000#32 2) = true := by
  decide

/-- A length of 3; a text that offends; a text of which no symbol does. -/
theorem witness_LowestOffendingIndexDecides :
    [0x41#8, 0x42#8, 0x43#8].length % 4 ≠ 0 ∧
    (decodeText [0x61#8, 0x61#8, 0x3D#8, 0x61#8] = .err .invalidPadding ∧
      errorAt [0x61#8, 0x61#8, 0x3D#8, 0x61#8] 3 = some .invalidPadding) ∧
    ∀ i, i < textZg.length → errorAt textZg i = none := by decide

/-- "Zg==" and "Zh=="; "Zm8=" and "Zm9=". -/
theorem witness_DiscardedBitsAreNotChecked : (0x20#6) >>> 4 = (0x21#6) >>> 4 ∧ (0x3C#6) >>> 2 = (0x3D#6) >>> 2 := by
  decide

/-- "Zg==Zg==". -/
theorem witness_PaddingBeforeTheFinalGroupFails :
    (textZg ++ textZg).length % 4 = 0 ∧ (textZg ++ textZg)[2]? = some 0x3D#8 ∧
    2 / 4 < (textZg ++ textZg).length / 4 - 1 ∧ ∀ j, j < 2 → errorAt (textZg ++ textZg) j = none := by decide

theorem witness_DecodeOfEncodeIsTheBytes : [0x66#8].length < 2 ^ 30 := by decide

theorem witness_DecodedCountIsDecodedLength : decodeText textZg = .ok [0x66#8] := by decide

theorem witness_DecodeIsAllOrNothing : ∃ t, exec .decode (ready 2#3 textZg) = .next t := ⟨_, rfl⟩

theorem witness_IllegalCommandsComplete :
    Instr.illegal0 = .illegal0 ∨ Instr.illegal0 = .illegal5 ∨ Instr.illegal0 = .illegal6 ∨
      Instr.illegal0 = .illegal7 := by decide

theorem witness_CommandsWriteOnlyTheDestinationWindow :
    (∃ t, exec .encode (ready 1#3 [0x66#8]) = .next t) ∧ (∃ t, exec .decode (ready 2#3 textZg) = .next t) ∧
    (∃ t, exec .encLen (ready 3#3 []) = .next t) ∧ (∃ t, exec .decLen (ready 4#3 textZg) = .next t) ∧
    ∃ t, exec .illegal0 State.reset = .next t :=
  ⟨⟨_, rfl⟩, ⟨_, rfl⟩, ⟨_, rfl⟩, ⟨_, rfl⟩, ⟨_, rfl⟩⟩

theorem witness_DefinedCommandsComplete :
    WindowsDefined .encode (ready 1#3 textZg) ∧ WindowsDefined .decode (ready 2#3 textZg) ∧
    WindowsDefined .encLen (ready 3#3 textZg) ∧ WindowsDefined .decLen (ready 4#3 textZg) ∧
    WindowsDefined .illegal0 State.reset := by decide

/-- BUSY falls by the engine's step, and rises by a CMD write. -/
theorem witness_BusyChangesOnlyByItsRule :
    (ready 1#3 [0x66#8]).busy = true ∧ after (step (ready 1#3 [0x66#8])) (fun t => !t.busy) = true ∧
    operands.busy = false ∧ after (step (operands.withWrite .cmd 1#32)) (fun t => t.busy) = true := by decide

/-- DONE falls by an acknowledgement, by a CMD write and by a reset, and rises by the engine and by an illegal CMD write. -/
theorem witness_DoneChangesOnlyByItsRule :
    after (step (State.withWrite .status 2#32 { operands with done := true })) (fun t => !t.done) = true ∧
    after (step (State.withWrite .cmd 1#32 { operands with done := true })) (fun t => !t.done) = true ∧
    after (step (State.withEvent .reset { operands with done := true })) (fun t => !t.done) = true ∧
    operands.done = false ∧ after (step (ready 1#3 [0x66#8])) (fun t => t.done) = true ∧
    after (step (operands.withWrite .cmd 0#32)) (fun t => t.done) = true := by decide

theorem witness_OverrunChangesOnlyByItsRule :
    (ready 1#3 []).ovr = false ∧ after (step ((ready 1#3 []).withWrite .cmd 1#32)) (fun t => t.ovr) = true ∧
    after (step (State.withWrite .status 8#32 { operands with ovr := true })) (fun t => !t.ovr) = true ∧
    after (step (State.withEvent .reset { operands with ovr := true })) (fun t => !t.ovr) = true := by decide

theorem witness_InterruptFollowsDone : ∃ t, exec .encLen { ready 3#3 [] with ie := true } = .next t := ⟨_, rfl⟩

/-- The last byte of SW, and the last of DW, as the last byte of a store that begins outside. -/
theorem witness_WindowWritesWhileBusyAreRefused :
    (ready 1#3 textZg).busy = true ∧
    (srcWindow (decodeOp 1#3) (ready 1#3 textZg)).has (elementAddr 0x1003#32 0) = true ∧
    (dstWindow (decodeOp 1#3) (ready 1#3 textZg)).has (elementAddr 0x1FFF#32 1) = true ∧
    ∀ k, k < 2 →
      (ready 1#3 textZg).registerWindow.has (elementAddr 0x1FFF#32 k) = false ∧
      anyHas (ready 1#3 textZg).devices (elementAddr 0x1FFF#32 k) = false := by decide

/-- The byte just past DW of a BUSY engine, stored and loaded; a load that is answered. -/
theorem witness_HostMemoryAccessesAreOrdinary :
    (∀ k, k < 2 →
      (ready 1#3 textZg).registerWindow.has (elementAddr 0x2008#32 k) = false ∧
      anyHas (ready 1#3 textZg).devices (elementAddr 0x2008#32 k) = false ∧
      (ready 1#3 textZg).runningSrc.has (elementAddr 0x2008#32 k) = false ∧
      (ready 1#3 textZg).runningDst.has (elementAddr 0x2008#32 k) = false) ∧
    ∃ t, step ((ready 1#3 textZg).withEvent (.busRead 0x2000#32 4)) = .next t :=
  ⟨by decide, _, rfl⟩

/-- The invariant holds at reset and while BUSY, and a step can be taken there. -/
theorem witness_EveryStepKeepsTheInvariant :
    Inv State.reset ∧ Inv (ready 1#3 [0x66#8]) ∧ ∃ t, step (ready 1#3 [0x66#8]) = .next t :=
  ⟨⟨by decide, by decide, by decide, by decide, by decide, by decide, by decide⟩,
   ⟨by decide, by decide, by decide, by decide, by decide, by decide, by decide⟩, _, rfl⟩

/-- Two IDLE states with different operands latched. -/
theorem witness_HiddenStateIsNotObservable :
    SameToHost State.reset { State.reset with lop := 1#3, lsrc := 5#32, work := { EngineWork.reset with acc := 1#24 } } :=
  ⟨rfl, rfl, rfl, rfl, rfl, rfl, rfl, rfl, rfl, rfl, rfl, rfl, rfl, rfl, rfl, rfl, rfl, rfl, by decide⟩

theorem witness_PollEndsWithTheCommand :
    (ready 2#3 textZg).busy = true ∧ WindowsDefined (decodeOp (ready 2#3 textZg).lop) (ready 2#3 textZg) := by decide

theorem witness_PseudoCommandsDoWhatTheySay :
    State.reset.inbox = [] ∧ State.reset.busy = false ∧
    WindowsDefined .encode
      { State.reset with lsrc := 0x1000#32, llen := BitVec.setWidth 30 3#32, ldst := 0x2000#32 } ∧
    WindowsDefined .decode
      { State.reset with lsrc := 0x1000#32, llen := BitVec.setWidth 30 4#32, ldst := 0x2000#32 } ∧
    WindowsDefined .decLen
      { State.reset with lsrc := 0x1000#32, llen := BitVec.setWidth 30 4#32, ldst := State.reset.dstAddr } := by decide

theorem witness_EncodeThenDecodeRestoresTheBytes :
    encodedLength (ready 1#3 [0x66#8]).llen.toNat < 2 ^ 30 ∧ WindowsDefined .encode (ready 1#3 [0x66#8]) ∧
    WindowsDefined .decode
      { ready 1#3 [0x66#8] with
        lsrc := (ready 1#3 [0x66#8]).ldst,
        llen := BitVec.ofNat 30 (encodedLength (ready 1#3 [0x66#8]).llen.toNat), ldst := 0x3000#32 } ∧
    ReadsAnswered (ready 1#3 [0x66#8]) 0x1000#32 1 ∧ WritesAnswered (ready 1#3 [0x66#8]) 0x2000#32 4 ∧
    ReadsAnswered (ready 1#3 [0x66#8]) 0x2000#32 4 ∧ WritesAnswered (ready 1#3 [0x66#8]) 0x3000#32 1 := by decide

end Sys2Proof.Tests
end

section
/-! PROOFS. The outcome of a turn, and the steps that take a register access or the engine's turn. -/

namespace Sys2Proof.Machine

open Sys2Proof

/-- The outcome of a turn: the command it runs is executed in the same step. -/
def Turn.outcome : Turn → Host.Outcome State Fault Refusal
  | .run i s => exec i s
  | .next s => .next s
  | .refused r => .refused r

theorem step_eq_outcome (s : State) : step s = (turn s).outcome := by
  unfold step
  cases turn s <;> rfl

/-! ## Steps that take a register access or the engine's turn -/

theorem step_withWrite (s : State) (r : Reg) (w : Word) : step (s.withWrite r w) = (writeReg r w s).outcome := by
  rw [step_eq_outcome, turn_withWrite]

theorem step_withRead (s : State) (r : Reg) :
    step (s.withRead r) = .next (keepRead (bytesOfWord (readReg r s)) s) := by
  rw [step_eq_outcome, turn_withRead]
  rfl

/-- The engine's turn while BUSY runs the latched command (10_state.md R37). -/
theorem engineTurn_busy {s : State} (h : s.busy = true) : engineTurn s = .run (decodeOp s.lop) s := by
  simp [engineTurn, h]

/-- An empty inbox leaves the engine to move (log entry 1). -/
theorem turn_of_inbox_nil {s : State} (hi : s.inbox = []) : turn s = engineTurn s := by
  simp [turn, hi]

end Sys2Proof.Machine
end

section
/-! PROOFS. Register reads and writes (10_state.md R22 to R35), and the command a step runs (R37, R38). -/

namespace Sys2Proof.Machine

open Sys2Proof

/-! ## Register reads -/

/-- STATUS as a number: its four bits by weight (10_state.md R26). -/
theorem statusWord_toNat (s : State) :
    s.statusWord.toNat = s.busy.toNat + 2 * s.done.toNat + 4 * s.err.toNat + 8 * s.ovr.toNat := by
  unfold State.statusWord
  cases s.busy <;> cases s.done <;> cases s.err <;> cases s.ovr <;> rfl

theorem err_toNat (s : State) : s.err.toNat = if s.errCode = 0#4 then 0 else 1 := by
  unfold State.err
  split <;> simp_all

/-- Settles O7: the value is `readReg`'s, and each register's fields fit the word they are read in. -/
theorem registerReadsReturnTheFields : Obligations.RegisterReadsReturnTheFields := by
  intro s r
  refine ⟨readReg r s, step_withRead s r, ?_⟩
  cases r with
  | ctrl => cases h : s.ie <;> simp [readReg, h]
  | status => rw [← err_toNat]; exact statusWord_toNat s
  | errCode => exact BitVec.toNat_setWidth_of_le (by decide)
  | srcLen => exact BitVec.toNat_setWidth_of_le (by decide)
  | cmd | srcAddr | dstAddr | result => rfl

/-! ## Register writes -/

/-- STATUS is write-1-to-clear in DONE and OVR (10_state.md R26). -/
theorem writeStatus_eq (w : Word) (s : State) :
    writeStatus w s = { s with done := s.done && !w.getLsbD 1, ovr := s.ovr && !w.getLsbD 3 } := by
  unfold writeStatus
  cases w.getLsbD 1 <;> cases w.getLsbD 3 <;> simp [acknowledge, clearOverrun]

/-- Settles O8: the step is the register's write, and the stored length is the word's low 30 bits. -/
theorem registerWritesChangeOnlyWritableFields : Obligations.RegisterWritesChangeOnlyWritableFields := by
  intro s w
  have low : w.setWidth 30 = BitVec.ofNat 30 (w.toNat % 2 ^ 30) := by
    apply BitVec.eq_of_toNat_eq
    simp
  refine ⟨step_withWrite s .ctrl w, ?_, step_withWrite s .errCode w, step_withWrite s .srcAddr w, ?_,
    step_withWrite s .dstAddr w, step_withWrite s .result w⟩
  · rw [← writeStatus_eq]
    exact step_withWrite s .status w
  · rw [← low]
    exact step_withWrite s .srcLen w

/-! ## CMD writes -/

theorem writeReg_cmd_busy {s : State} (h : s.busy = true) (w : Word) :
    writeReg .cmd w s = .next (setOverrun s) := by
  simp [writeReg, writeCmd, h]

theorem writeReg_cmd_legal {s : State} {w : Word} (h : s.busy = false) (hl : (decodeWord w).legal = true)
    (hd : WindowsDefined (decodeWord w) (latch w s)) : writeReg .cmd w s = .next (enterBusy (latch w s)) := by
  simp [writeReg, writeCmd, acceptCommand, h, hl, hd]

theorem writeReg_cmd_illegal {s : State} {w : Word} (h : s.busy = false) (hl : (decodeWord w).legal = false) :
    writeReg .cmd w s = .run (decodeWord w) (latch w s) := by
  simp [writeReg, writeCmd, acceptCommand, h, hl]

/-- Settles O10: the accepted start is `latch` and the phase BUSY. -/
theorem acceptedStartLatchesTheOperands : Obligations.AcceptedStartLatchesTheOperands := by
  intro s w h hl hd
  rw [step_withWrite, writeReg_cmd_legal h hl hd]
  rfl

/-- Settles O12: a CMD write while BUSY is `setOverrun`. -/
theorem commandWrittenWhileBusyIsDropped : Obligations.CommandWrittenWhileBusyIsDropped := by
  intro s w h
  rw [step_withWrite, writeReg_cmd_busy h]
  rfl

/-! ## The command a step runs -/

theorem step_engine_busy {s : State} (h : s.busy = true) : step (s.withEvent .engine) = exec (decodeOp s.lop) s := by
  rw [step_eq_outcome, turn_withEvent, deliver, engineTurn_busy h]
  rfl

theorem step_inbox_nil_busy {s : State} (h : s.busy = true) (hi : s.inbox = []) :
    step s = exec (decodeOp s.lop) s := by
  rw [step_eq_outcome, turn_of_inbox_nil hi, engineTurn_busy h]
  rfl

theorem step_cmd_illegal {s : State} {w : Word} (h : s.busy = false) (hl : (decodeWord w).legal = false) :
    step (s.withWrite .cmd w) = exec (decodeWord w) (latch w s) := by
  rw [step_withWrite, writeReg_cmd_illegal h hl]
  rfl

/-- A legal word is placed as its accepted start, with the engine's turn first. -/
theorem withFetchWord_legal (s : State) {w : Word} (hl : (decodeWord w).legal = true) :
    s.withFetchWord 32 w.toNat = (enterBusy (latch w s)).withEvent .engine := by
  rw [State.withFetchWord, tableWord_toNat, placeCommand, if_pos hl]
  rfl

/-- An illegal word is placed as its CMD write with the engine IDLE. -/
theorem withFetchWord_illegal (s : State) {w : Word} (hl : (decodeWord w).legal = false) :
    s.withFetchWord 32 w.toNat = State.withWrite .cmd w { s with busy := false } := by
  rw [State.withFetchWord, tableWord_toNat, placeCommand, hl]
  rfl

/-- Settles O4: the two forms of the engine's turn, the illegal CMD write, and the placement that reduces to them. -/
theorem stepRunsTheDecodedCommand : Obligations.StepRunsTheDecodedCommand := by
  refine ⟨fun s h hi => step_inbox_nil_busy h hi, fun s h => step_engine_busy h,
    fun s w h hl => step_cmd_illegal h hl, fun s w hl => ?_, fun s w hl => ?_⟩
  · rw [withFetchWord_legal s hl]
    exact step_engine_busy rfl
  · rw [withFetchWord_illegal s hl]
    exact step_cmd_illegal rfl hl

end Sys2Proof.Machine
end

section
/-! PROOFS. Completion, and what each step can do to BUSY, DONE, OVR and IRQ (10_state.md R27, R28, R30, R44). -/

namespace Sys2Proof.Machine

open Sys2Proof

/-! ## What a completed command leaves in STATUS and CTRL -/

/-- BUSY, DONE and OVR: the flags of STATUS that are stored (10_state.md R26). -/
def State.flags (s : State) : Bool × Bool × Bool := (s.busy, s.done, s.ovr)

@[simp] theorem flags_eq_iff (s : State) (b d o : Bool) :
    s.flags = (b, d, o) ↔ s.busy = b ∧ s.done = d ∧ s.ovr = o := by
  simp [State.flags]

/-- Every completion goes through R36's or R191's state change: BUSY 0, DONE 1, CTRL and OVR kept. -/
theorem exec_completes {i : Instr} {s t : State} (h : exec i s = .next t) :
    t.flags = (false, true, s.ovr) ∧ t.ie = s.ie := by
  rcases exec_cases h with ⟨kind, u, rfl, ⟨hie, hovr, -⟩, -⟩ | ⟨n, u, rfl, ⟨hie, hovr, -⟩, -⟩ | rfl
  · exact ⟨congrArg (fun o => (false, true, o)) hovr, hie⟩
  · exact ⟨congrArg (fun o => (false, true, o)) hovr, hie⟩
  · exact ⟨rfl, rfl⟩

/-- Settles O45: a defined command runs, and whatever runs completes. -/
theorem definedCommandsComplete : Obligations.DefinedCommandsComplete := by
  intro i s h
  obtain ⟨t, ht⟩ := exec_defined i s h
  obtain ⟨hf, -⟩ := exec_completes ht
  obtain ⟨hb, hd, -⟩ := (flags_eq_iff ..).1 hf
  exact ⟨t, ht, hd, hb⟩

theorem writeStatus_flags (w : Word) (s : State) :
    (writeStatus w s).flags = (s.busy, s.done && !w.getLsbD 1, s.ovr && !w.getLsbD 3) := by
  rw [writeStatus_eq]
  rfl

/-! ## What a step does to the flags -/

/-- The next event is a write of `w` to register `r`, by whichever requester. -/
def WritesNext (s : State) (r : Reg) (w : Word) : Prop :=
  ∃ q, s.inbox.head? = some (.busWrite q (s.addrOf r) (bytesOfWord w))

/-- What a step from `s` can do to the flags, with the event that does it (10_state.md R27, R28, R30). -/
inductive FlagChange (s t : State) : Prop where
  | overrun (w : Word) (hw : WritesNext s .cmd w) (hb : s.busy = true) (h : t.flags = (true, s.done, true))
  | start (w : Word) (hw : WritesNext s .cmd w) (hb : s.busy = false) (hl : (decodeWord w).legal = true)
      (h : t.flags = (true, false, s.ovr))
  | illegal (w : Word) (hw : WritesNext s .cmd w) (hb : s.busy = false) (hl : (decodeWord w).legal = false)
      (h : t.flags = (false, true, s.ovr))
  | statusWrite (w : Word) (hw : WritesNext s .status w)
      (h : t.flags = (s.busy, s.done && !w.getLsbD 1, s.ovr && !w.getLsbD 3))
  | completion (he : s.inbox = [] ∨ s.inbox.head? = some .engine) (hb : s.busy = true)
      (h : t.flags = (false, true, s.ovr))
  | reset (he : s.inbox.head? = some .reset) (h : t.flags = (false, false, false))
  | none (h : t.flags = (s.busy, s.done, s.ovr))

/-- A register write, placed first in the inbox, changes the flags as R26, R37 and R38 say. -/
theorem FlagChange.of_writeReg {s t : State} {r : Reg} {w : Word} (hw : WritesNext s r w)
    (h : writeReg r w { s with inbox := s.inbox.tail } = .next t ∨
      ∃ i u, writeReg r w { s with inbox := s.inbox.tail } = .run i u ∧ exec i u = .next t) : FlagChange s t := by
  rcases writeReg_cases h with ⟨rfl, hb, rfl⟩ | ⟨rfl, hb, hl, rfl⟩ | ⟨rfl, hb, hl, he⟩ | ⟨rfl, rfl⟩ | ⟨hb, hd, ho, -⟩
  · exact .overrun w hw hb (congrArg (fun b => (b, s.done, true)) hb)
  · exact .start w hw hb hl rfl
  · exact .illegal w hw hb hl (exec_completes he).1
  · exact .statusWrite w hw (writeStatus_flags w _)
  · exact .none (by simp only [State.flags, hb, hd, ho])

theorem FlagChange.of_turnShape {s t : State} {u : Turn} (hs : TurnShape s u)
    (h : u = .next t ∨ ∃ i v, u = .run i v ∧ exec i v = .next t) : FlagChange s t := by
  cases hs with
  | write q r w hw => exact .of_writeReg ⟨q, hw⟩ h
  | engine he =>
    rcases engineTurn_cases h with ⟨hb, hx⟩ | ⟨-, rfl⟩
    · exact .completion he hb (exec_completes hx).1
    · exact .none rfl
  | reset he =>
    simp only [Turn.next.injEq, reduceCtorEq, false_and, exists_false, or_false] at h
    subst h
    exact .reset he rfl
  | quiet v hv =>
    simp only [Turn.next.injEq, reduceCtorEq, false_and, exists_false, or_false] at h
    subst h
    obtain ⟨hb, hd, ho, -⟩ := hv
    exact .none (by simp only [State.flags, hb, hd, ho])
  | refused r => simp at h

theorem step_flagChange {s t : State} (h : step s = .next t) : FlagChange s t :=
  .of_turnShape (turn_shape s) (step_next h)

/-- Settles O47: BUSY falls in the completion and reset cases and rises in the start case. -/
theorem busyChangesOnlyByItsRule : Obligations.BusyChangesOnlyByItsRule := by
  intro s t h
  refine ⟨fun hb ht => ?_, fun hb ht => ?_⟩
  · cases step_flagChange h with
    | completion he => exact he.imp_right .inl
    | reset he => exact .inr (.inr he)
    -- every other change keeps BUSY at 1
    | _ => simp_all
  · cases step_flagChange h with
    | start w hw _ hl =>
      obtain ⟨q, hq⟩ := hw
      exact ⟨q, w, hq, hl⟩
    -- every other change keeps BUSY at 0
    | _ => simp_all

/-- Settles O48: DONE falls by a start, the acknowledgement or a reset, and rises by a completion. -/
theorem doneChangesOnlyByItsRule : Obligations.DoneChangesOnlyByItsRule := by
  intro s t h
  refine ⟨fun hd ht => ?_, fun hd ht => ?_⟩
  · cases step_flagChange h with
    | start w hw hb =>
      obtain ⟨q, hq⟩ := hw
      exact .inr (.inl ⟨q, w, hq, hb⟩)
    | statusWrite w hw hf =>
      obtain ⟨q, hq⟩ := hw
      exact .inl ⟨q, w, hq, by simp_all⟩
    | reset he => exact .inr (.inr he)
    -- every other change keeps DONE at 1
    | _ => simp_all
  · cases step_flagChange h with
    | completion he hb => exact .inl ⟨hb, he⟩
    | illegal w hw hb hl =>
      obtain ⟨q, hq⟩ := hw
      exact .inr ⟨q, w, hq, hb, hl⟩
    -- every other change keeps DONE at 0
    | _ => simp_all

/-- Settles O49: OVR rises in the overrun case and falls by a STATUS write or a reset. -/
theorem overrunChangesOnlyByItsRule : Obligations.OverrunChangesOnlyByItsRule := by
  intro s t h
  refine ⟨fun ho ht => ?_, fun ho ht => ?_⟩
  · cases step_flagChange h with
    | overrun w hw hb =>
      obtain ⟨q, hq⟩ := hw
      exact ⟨hb, q, w, hq⟩
    -- every other change keeps OVR at 0
    | _ => simp_all
  · cases step_flagChange h with
    | statusWrite w hw hf =>
      obtain ⟨q, hq⟩ := hw
      exact .inl ⟨q, w, hq, by simp_all⟩
    | reset he => exact .inr he
    -- every other change keeps OVR at 1
    | _ => simp_all

/-! ## IRQ -/

/-- Settles O50: a completion sets DONE and keeps CTRL.IE, and the acknowledgement is `writeStatus` of 2. -/
theorem interruptFollowsDone : Obligations.InterruptFollowsDone := by
  refine ⟨fun i s t h => ?_, fun s => ⟨_, step_withWrite s .status 0x2#32, ?_⟩⟩
  · obtain ⟨hf, hie⟩ := exec_completes h
    simp_all [State.irq]
  · simp [writeStatus_eq, State.irq]

end Sys2Proof.Machine
end

section
/-! PROOFS. The running command does not read the operand registers (10_state.md R39). -/

namespace Sys2Proof.Machine

open Sys2Proof

/-- `s` with other values in SRC_ADDR, SRC_LEN and DST_ADDR. -/
def withOperandRegs (src : Addr) (len : Length) (dst : Addr) (s : State) : State :=
  { s with srcAddr := src, srcLen := len, dstAddr := dst }

/-- An outcome with its next state changed by `f`. -/
def mapNext (f : State → State) : Host.Outcome State Fault Refusal → Host.Outcome State Fault Refusal
  | .next s => .next (f s)
  | .fault r => .fault r
  | .refused r => .refused r

section
variable (src : Addr) (len : Length) (dst : Addr) (s : State)

@[simp] theorem withOperandRegs_lsrc : (withOperandRegs src len dst s).lsrc = s.lsrc := rfl
@[simp] theorem withOperandRegs_count : (withOperandRegs src len dst s).count = s.count := rfl
@[simp] theorem withOperandRegs_ldst : (withOperandRegs src len dst s).ldst = s.ldst := rfl
@[simp] theorem withOperandRegs_noRead : (withOperandRegs src len dst s).noRead = s.noRead := rfl
@[simp] theorem withOperandRegs_noWrite : (withOperandRegs src len dst s).noWrite = s.noWrite := rfl

@[simp] theorem engineRead_withOperandRegs (a : Addr) :
    engineRead (withOperandRegs src len dst s) a = engineRead s a := by
  unfold engineRead
  rfl

@[simp] theorem engineReads_withOperandRegs (a : Addr) (n : Nat) :
    engineReads (withOperandRegs src len dst s) a n = engineReads s a n := by
  induction n generalizing a with
  | zero => rfl
  | succ n ih => simp only [engineReads, ih, engineRead_withOperandRegs]

@[simp] theorem engineWrites_withOperandRegs (a : Addr) (bs : List Byte) :
    engineWrites (withOperandRegs src len dst s) a bs = (engineWrites s a bs).map (withOperandRegs src len dst) := by
  induction bs generalizing s a with
  | nil => rfl
  | cons b bs ih =>
    simp only [engineWrites, engineWrite, withOperandRegs_noWrite]
    by_cases hn : anyHas s.noWrite a = true
    · simp [hn]
    · simp only [hn, Bool.false_eq_true, ↓reduceIte]
      exact ih { s with mem := Memory.write s.mem a.toNat b } (a + 1#32)

theorem undefinedCommand_withOperandRegs (i : Instr) :
    undefinedCommand i (withOperandRegs src len dst s) = undefinedCommand i s := by
  cases i <;> rfl

/-- A guarded execution commutes with the change of the registers where what it runs does. -/
theorem whenDefined_withOperandRegs (i : Instr) {run : State → State}
    (h : ∀ u, run (withOperandRegs src len dst u) = withOperandRegs src len dst (run u)) :
    whenDefined i run (withOperandRegs src len dst s) = mapNext (withOperandRegs src len dst) (whenDefined i run s) := by
  unfold whenDefined
  rw [undefinedCommand_withOperandRegs]
  cases undefinedCommand i s with
  | none => exact congrArg _ (h (engineWorked s))
  | some r => rfl

theorem encodeCommand_withOperandRegs :
    encodeCommand (withOperandRegs src len dst s) = withOperandRegs src len dst (encodeCommand s) := by
  simp only [encodeCommand, withOperandRegs_lsrc, withOperandRegs_count, withOperandRegs_ldst,
    engineReads_withOperandRegs, engineWrites_withOperandRegs]
  cases allRead (engineReads s s.lsrc s.count) with
  | none => rfl
  | some b =>
    simp only
    cases engineWrites s s.ldst (encodeBytes b) <;> rfl

theorem decodeCommand_withOperandRegs :
    decodeCommand (withOperandRegs src len dst s) = withOperandRegs src len dst (decodeCommand s) := by
  simp only [decodeCommand, withOperandRegs_lsrc, withOperandRegs_count, withOperandRegs_ldst,
    engineReads_withOperandRegs, engineWrites_withOperandRegs]
  split
  · rfl
  · cases allRead (engineReads s s.lsrc s.count) with
    | none => rfl
    | some t =>
      simp only
      cases decodeText t with
      | err kind => rfl
      | ok bytes =>
        simp only
        cases engineWrites s s.ldst bytes <;> rfl

theorem decLenCommand_withOperandRegs :
    decLenCommand (withOperandRegs src len dst s) = withOperandRegs src len dst (decLenCommand s) := by
  simp only [decLenCommand, symbolRead, withOperandRegs_lsrc, withOperandRegs_count, engineRead_withOperandRegs]
  split
  · rfl
  · split
    · rfl
    · cases engineRead s (s.lsrc + BitVec.ofNat 32 (s.count - 1)) with
      | none => rfl
      | some c1 =>
        simp only
        split
        · cases engineRead s (s.lsrc + BitVec.ofNat 32 (s.count - 2)) <;> rfl
        · rfl

/-- The execution of a command reads the latched operands and never the operand registers (10_state.md R39). -/
theorem exec_withOperandRegs (i : Instr) :
    exec i (withOperandRegs src len dst s) = mapNext (withOperandRegs src len dst) (exec i s) := by
  cases i with
  | encode => exact whenDefined_withOperandRegs src len dst s _ (encodeCommand_withOperandRegs src len dst)
  | decode => exact whenDefined_withOperandRegs src len dst s _ (decodeCommand_withOperandRegs src len dst)
  | encLen => exact whenDefined_withOperandRegs src len dst s _ fun _ => rfl
  | decLen => exact whenDefined_withOperandRegs src len dst s _ (decLenCommand_withOperandRegs src len dst)
  | illegal0 | illegal5 | illegal6 | illegal7 => rfl

end

/-- Settles O46: exec commutes with the change of the operand registers. -/
theorem operandWritesDoNotReachTheRunningCommand : Obligations.OperandWritesDoNotReachTheRunningCommand := by
  intro i s src len dst
  have h := exec_withOperandRegs src len dst s i
  cases e : exec i s <;> exact h.trans (by rw [e]; rfl)

end Sys2Proof.Machine
end

section
/-! PROOFS. The engine's working state, and the latched operands while IDLE, are not observable (10_state.md R39, R43):
each operation takes states the host cannot tell apart to outcomes it cannot tell apart. -/

namespace Sys2Proof.Machine

open Sys2Proof

theorem SameToHost.refl (s : State) : SameToHost s s :=
  ⟨rfl, rfl, rfl, rfl, rfl, rfl, rfl, rfl, rfl, rfl, rfl, rfl, rfl, rfl, rfl, rfl, rfl, rfl,
    fun _ => ⟨rfl, rfl, rfl, rfl⟩⟩

theorem SameOutcome.refl (o : Host.Outcome State Fault Refusal) : SameOutcome o o := by
  cases o with
  | next s => exact SameToHost.refl s
  | fault r => rfl
  | refused r => rfl

/-- The same operands are latched (10_state.md R39): what `SameToHost` asks for while BUSY only. -/
def SameOperands (s t : State) : Prop := s.lop = t.lop ∧ s.lsrc = t.lsrc ∧ s.llen = t.llen ∧ s.ldst = t.ldst

/-- With the latched operands equal too, only the working state is left to differ. -/
theorem SameToHost.eq_withWork {s t : State} (h : SameToHost s t) (ho : SameOperands s t) :
    t = { s with work := t.work } := by
  obtain ⟨h1, h2, h3, h4, h5, h6, h7, h8, h9, h10, h11, h12, h13, h14, h15, h16, h17, h18, -⟩ := h
  obtain ⟨o1, o2, o3, o4⟩ := ho
  cases s; cases t
  simp_all

theorem sameToHost_withWork (s : State) (w : EngineWork) : SameToHost s { s with work := w } :=
  { SameToHost.refl s with }

/-- After a completion the engine is IDLE, so the latched operands no longer matter. -/
theorem SameToHost.raiseError_congr {s t : State} (h : SameToHost s t) (k : ErrorKind) :
    SameToHost (raiseError k s) (raiseError k t) :=
  { h with result := rfl, errCode := rfl, done := rfl, busy := rfl, operands := nofun }

theorem SameToHost.latch_congr {s t : State} (h : SameToHost s t) (w : Word) :
    SameToHost (latch w s) (latch w t) :=
  { h with done := rfl, errCode := rfl, result := rfl, operands := fun _ => ⟨rfl, h.srcAddr, h.srcLen, h.dstAddr⟩ }

/-! ## Commands do not read the working state -/

theorem undefinedCommand_withWork (i : Instr) (s : State) (w : EngineWork) :
    undefinedCommand i { s with work := w } = undefinedCommand i s := by
  cases i <;> rfl

/-- A guarded execution overwrites the working state before anything could read it. -/
theorem whenDefined_withWork (i : Instr) (run : State → State) (s : State) (w : EngineWork) :
    whenDefined i run { s with work := w } = whenDefined i run s := by
  unfold whenDefined
  rw [undefinedCommand_withWork]
  rfl

theorem exec_withWork (i : Instr) (s : State) (w : EngineWork) :
    SameOutcome (exec i s) (exec i { s with work := w }) := by
  have legal (j : Instr) (run : State → State) :
      SameOutcome (whenDefined j run s) (whenDefined j run { s with work := w }) := by
    rw [whenDefined_withWork]
    exact SameOutcome.refl _
  have illegal : SameToHost (raiseError .illegalCommand s) (raiseError .illegalCommand { s with work := w }) :=
    (sameToHost_withWork s w).raiseError_congr _
  cases i with
  | encode | decode | encLen | decLen => exact legal _ _
  | illegal0 | illegal5 | illegal6 | illegal7 => exact illegal

/-- Executions of one command with the same latched operands cannot be told apart. -/
theorem SameToHost.exec_congr {s t : State} (h : SameToHost s t) (ho : SameOperands s t) (i : Instr) :
    SameOutcome (exec i s) (exec i t) := by
  rw [h.eq_withWork ho]
  exact exec_withWork i s t.work

/-! ## The windows of the executing command -/

/-- While BUSY the windows are the latched operands', and an IDLE engine has none. -/
theorem SameToHost.runningSrc_has_congr {s t : State} (h : SameToHost s t) (a : Addr) :
    s.runningSrc.has a = t.runningSrc.has a := by
  cases hb : s.busy with
  | true => rw [h.eq_withWork (h.operands hb)]; rfl
  | false => simp [State.runningSrc, ← h.busy, hb, Window.has]

theorem SameToHost.runningDst_has_congr {s t : State} (h : SameToHost s t) (a : Addr) :
    s.runningDst.has a = t.runningDst.has a := by
  cases hb : s.busy with
  | true => rw [h.eq_withWork (h.operands hb)]; rfl
  | false => simp [State.runningDst, ← h.busy, hb, Window.has]

/-- Windows that hold the same addresses overlap the same windows. -/
theorem Window.overlaps_congr {v w : Window} (h : ∀ a, v.has a = w.has a) (x : Window) :
    v.overlaps x = w.overlaps x := by
  rw [Bool.eq_iff_iff, Window.overlaps_iff, Window.overlaps_iff]
  simp only [h]

/-! ## Register accesses -/

theorem SameToHost.readReg_congr {s t : State} (h : SameToHost s t) (r : Reg) : readReg r s = readReg r t := by
  cases r <;> simp only [readReg, State.statusWord, State.err, h.ie, h.busy, h.done, h.ovr, h.errCode,
    h.srcAddr, h.srcLen, h.dstAddr, h.result]

theorem SameToHost.keepRead_congr {s t : State} (h : SameToHost s t) (bs : List Byte) :
    SameToHost (keepRead bs s) (keepRead bs t) :=
  { h with reads := congrArg (bs :: ·) h.reads }

theorem SameToHost.writeStatus_congr {s t : State} (h : SameToHost s t) (w : Word) :
    SameToHost (writeStatus w s) (writeStatus w t) := by
  unfold writeStatus
  cases w.getLsbD 1 <;> cases w.getLsbD 3
  · exact h
  · exact { h with ovr := rfl }
  · exact { h with done := rfl }
  · exact { h with done := rfl, ovr := rfl }

/-- An accepted start latches the operand registers, which the host sees. -/
theorem SameToHost.acceptCommand_congr {s t : State} (h : SameToHost s t) (w : Word) :
    SameOutcome (acceptCommand w s).outcome (acceptCommand w t).outcome := by
  have hl := h.latch_congr w
  have ho : SameOperands (latch w s) (latch w t) := ⟨rfl, h.srcAddr, h.srcLen, h.dstAddr⟩
  have hu : undefinedCommand (decodeWord w) (latch w t) =
      undefinedCommand (decodeWord w) (latch w s) := by
    rw [hl.eq_withWork ho, undefinedCommand_withWork]
  unfold acceptCommand
  rw [hu]
  split
  · split
    · rfl
    · exact { hl with busy := rfl, operands := fun _ => ho }
  · exact hl.exec_congr ho _

theorem SameToHost.writeReg_congr {s t : State} (h : SameToHost s t) (r : Reg) (w : Word) :
    SameOutcome (writeReg r w s).outcome (writeReg r w t).outcome := by
  cases r with
  | ctrl => exact { h with ie := rfl }
  | cmd =>
    simp only [writeReg, writeCmd, ← h.busy]
    split
    · exact { h with ovr := rfl }
    · exact h.acceptCommand_congr w
  | status => exact h.writeStatus_congr w
  | srcAddr => exact { h with srcAddr := rfl }
  | srcLen => exact { h with srcLen := rfl }
  | dstAddr => exact { h with dstAddr := rfl }
  | errCode | result => exact h

theorem SameToHost.offsetOf_congr {s t : State} (h : SameToHost s t) (a : Addr) : s.offsetOf a = t.offsetOf a := by
  simp only [State.offsetOf, h.base]

theorem SameToHost.registerWrite_congr {s t : State} (h : SameToHost s t) (a : Addr) (bytes : List Byte) :
    SameOutcome (registerWrite a bytes s).outcome (registerWrite a bytes t).outcome := by
  unfold registerWrite
  rw [← h.offsetOf_congr a]
  split
  · split
    · exact h.writeReg_congr _ _
    · rfl
  · rfl

theorem SameToHost.registerRead_congr {s t : State} (h : SameToHost s t) (a : Addr) (size : Nat) :
    SameOutcome (registerRead a size s).outcome (registerRead a size t).outcome := by
  unfold registerRead
  simp only [← h.readReg_congr]
  rw [← h.offsetOf_congr a]
  split
  · split
    · exact h.keepRead_congr _
    · rfl
  · rfl

/-! ## Memory accesses -/

theorem SameToHost.memByte_congr {s t : State} (h : SameToHost s t) (a : Addr) : s.memByte a = t.memByte a := by
  simp only [State.memByte, h.mem]

theorem SameToHost.loadedBytes_congr {s t : State} (h : SameToHost s t) (n size : Nat) (a : Addr) :
    loadedBytes s n a size = loadedBytes t n a size := by
  induction size generalizing n a with
  | zero => rfl
  | succ size ih => simp only [loadedBytes, h.runningDst_has_congr, h.memByte_congr, ih]

theorem SameToHost.hostStore_congr {s t : State} (h : SameToHost s t) (a : Addr) (bytes : List Byte) :
    SameOutcome (hostStore a bytes s).outcome (hostStore a bytes t).outcome := by
  simp only [hostStore, ← h.devices, Window.overlaps_congr h.runningSrc_has_congr,
    Window.overlaps_congr h.runningDst_has_congr]
  split
  · rfl
  · split
    · rfl
    · exact { h with devices := rfl, mem := congrArg (writeBytes · a bytes) h.mem }

theorem SameToHost.hostLoad_congr {s t : State} (h : SameToHost s t) (a : Addr) (size : Nat) :
    SameOutcome (hostLoad a size s).outcome (hostLoad a size t).outcome := by
  simp only [hostLoad, ← h.devices, Window.overlaps_congr h.runningDst_has_congr, h.freeCount, h.loadedBytes_congr]
  split
  · rfl
  · exact { h.keepRead_congr _ with freeCount := rfl }

theorem SameToHost.scramble_congr {s t : State} (h : SameToHost s t) (w : Window) :
    SameToHost (scramble w s) (scramble w t) :=
  { h with
    mem := by simp only [scramble_mem, h.mem, h.freeCount]
    freeCount := congrArg (· + w.len) h.freeCount }

/-! ## The events -/

theorem SameToHost.pollRound_congr {s t : State} (h : SameToHost s t) (busyReads : Nat) :
    SameOutcome (pollRound busyReads s).outcome (pollRound busyReads t).outcome := by
  have hk := h.keepRead_congr (bytesOfWord s.statusWord)
  simp only [pollRound, ← h.busy, ← show s.statusWord = t.statusWord from h.readReg_congr .status]
  split
  · cases busyReads
    · exact { hk with inbox := congrArg (Event.engine :: .poll 0 :: ·) h.inbox }
    · exact { hk with inbox := congrArg (Event.poll _ :: ·) h.inbox }
  · exact hk

theorem SameToHost.resetBlock_congr {s t : State} (h : SameToHost s t) :
    SameToHost (resetBlock s) (resetBlock t) :=
  { h with
    ie := rfl, busy := rfl, done := rfl, ovr := rfl, errCode := rfl, srcAddr := rfl, srcLen := rfl, dstAddr := rfl,
    result := rfl, operands := nofun }

theorem SameToHost.assertReset_congr {s t : State} (h : SameToHost s t) :
    SameToHost (assertReset s) (assertReset t) := by
  unfold assertReset
  rw [← h.busy]
  cases hb : s.busy with
  | false => exact h.resetBlock_congr
  | true =>
    have hd : t.runningDst = s.runningDst := by rw [h.eq_withWork (h.operands hb)]; rfl
    have ha : SameToHost (abortCommand s) (abortCommand t) := by
      unfold abortCommand
      rw [hd]
      exact { h.scramble_congr s.runningDst with aborted := congrArg (s.runningDst :: ·) h.aborted }
    exact ha.resetBlock_congr

theorem SameToHost.lateWrite_congr {s t : State} (h : SameToHost s t) (a : Addr) :
    SameOutcome (lateWrite a s).outcome (lateWrite a t).outcome := by
  simp only [lateWrite, ← h.aborted, ← h.runningSrc_has_congr, ← h.runningDst_has_congr]
  split
  · split
    · rfl
    · exact h.scramble_congr _
  · exact h

/-- The engine's turn: an IDLE engine does not look at the latched operands. -/
theorem SameToHost.engineTurn_congr {s t : State} (h : SameToHost s t) :
    SameOutcome (engineTurn s).outcome (engineTurn t).outcome := by
  unfold engineTurn
  rw [← h.busy]
  cases hb : s.busy with
  | false => exact h
  | true =>
    have ho : SameOperands s t := h.operands hb
    rw [← ho.1]
    exact h.exec_congr ho _

theorem SameToHost.deliver_congr {s t : State} (h : SameToHost s t) (e : Event) :
    SameOutcome (deliver e s).outcome (deliver e t).outcome := by
  have touches (a : Addr) (n : Nat) : t.touchesRegisters a n = s.touchesRegisters a n := by
    simp only [State.touchesRegisters, State.registerWindow, h.base]
  cases e with
  | busWrite q a bytes =>
    simp only [deliver, busWrite, touches]
    split
    · exact h.registerWrite_congr a bytes
    · exact h.hostStore_congr a bytes
  | busRead a size =>
    simp only [deliver, busRead, touches]
    split
    · exact h.registerRead_congr a size
    · exact h.hostLoad_congr a size
  | poll busyReads => exact h.pollRound_congr busyReads
  | engine => exact h.engineTurn_congr
  | reset => exact h.assertReset_congr
  | lateWrite a => exact h.lateWrite_congr a
  | interconnect noRead noWrite => exact { h with noRead := rfl, noWrite := rfl }

theorem SameToHost.turn_congr {s t : State} (h : SameToHost s t) :
    SameOutcome (turn s).outcome (turn t).outcome := by
  unfold turn
  rw [← h.inbox]
  cases s.inbox with
  | nil => exact h.engineTurn_congr
  | cons e rest =>
    have hr : SameToHost { s with inbox := rest } { t with inbox := rest } := { h with inbox := rfl }
    exact hr.deliver_congr e

/-- Settles O55: every turn keeps the relation, and what it reads of the hidden state while BUSY, the latched operands,
is equal then. -/
theorem hiddenStateIsNotObservable : Obligations.HiddenStateIsNotObservable := by
  intro s t h
  rw [step_eq_outcome, step_eq_outcome]
  exact h.turn_congr

end Sys2Proof.Machine
end

section
/-! PROOFS. The two constant tables (10_state.md R40, R41). -/

namespace Sys2Proof.Machine

open Sys2Proof

/-- EncodeTable as a number, range by range (10_state.md R40). -/
theorem encodeTable_toNat (v : Sextet) :
    (encodeTable v).toNat =
      if v.toNat < 26 then 0x41 + v.toNat
      else if v.toNat < 52 then v.toNat + 0x47
      else if v.toNat < 62 then v.toNat - 4
      else if v.toNat = 62 then 0x2B
      else 0x2F := by
  simp only [encodeTable, BitVec.lt_def, ← BitVec.toNat_inj]
  have hv : v.toNat < 64 := v.isLt
  split_ifs <;> simp [BitVec.toNat_add, BitVec.toNat_sub, *] at * <;> omega

/-- All 64 values, one by one. -/
theorem decodeTable_encodeTable (v : Sextet) : decodeTable (encodeTable v) = .val v := by
  revert v
  decide

/-- The five ranges of bytes that have a value, and the value as a number (10_state.md R41). -/
theorem decodeTable_val_cases {b : Byte} {v : Sextet} (h : decodeTable b = .val v) :
    (0x41 ≤ b.toNat ∧ b.toNat ≤ 0x5A ∧ v.toNat = b.toNat - 0x41) ∨
      (0x61 ≤ b.toNat ∧ b.toNat ≤ 0x7A ∧ v.toNat = b.toNat - 0x47) ∨
      (0x30 ≤ b.toNat ∧ b.toNat ≤ 0x39 ∧ v.toNat = b.toNat + 4) ∨
      (b.toNat = 0x2B ∧ v.toNat = 62) ∨ (b.toNat = 0x2F ∧ v.toNat = 63) := by
  simp only [decodeTable, BitVec.le_def, ← BitVec.toNat_inj] at h
  split_ifs at h <;> cases h <;> simp [BitVec.toNat_sub, BitVec.toNat_add] at * <;> omega

/-- EncodeTable maps the value of a byte back to it. -/
theorem eq_encodeTable_of_decodeTable {b : Byte} {v : Sextet} (h : decodeTable b = .val v) : b = encodeTable v := by
  have hr := decodeTable_val_cases h
  apply BitVec.eq_of_toNat_eq
  rw [encodeTable_toNat]
  split_ifs <;> omega

/-- All 256 bytes, one by one. -/
theorem decodeTable_pad_iff (b : Byte) : decodeTable b = .pad ↔ b = 0x3D#8 := by
  revert b
  decide

/-- Settles O30, clause by clause; that every other byte is INVALID is what clauses 3 and 4 leave. -/
theorem decodeTableInvertsEncodeTable : Obligations.DecodeTableInvertsEncodeTable :=
  ⟨encodeTable_toNat, decodeTable_encodeTable, fun _ _ => eq_encodeTable_of_decodeTable, decodeTable_pad_iff⟩

end Sys2Proof.Machine
end

section
/-! PROOFS. Addresses of a sequence, and the windows of each command as sets (20_memory.md R61, R62, R63, R66). -/

namespace Sys2Proof.Machine

open Sys2Proof

/-! ## Addresses and windows -/

/-- Settles O17: addition of addresses is modulo 2^32 (20_memory.md R66). -/
theorem elementAddressesWrap : Obligations.ElementAddressesWrap := by
  intro a i
  simp [elementAddr]

theorem elementAddr_add (a : Addr) (m n : Nat) : elementAddr (elementAddr a m) n = elementAddr a (m + n) := by
  rw [elementAddr, elementAddr, elementAddr, BitVec.ofNat_add, BitVec.add_assoc]

@[simp] theorem elementAddr_zero (a : Addr) : elementAddr a 0 = a := by simp [elementAddr]

@[simp] theorem Window.has_empty (a x : Addr) : (⟨a, 0⟩ : Window).has x = false := by simp [Window.has]

/-- An address outside a window is outside every shorter one with the same start. -/
theorem Window.has_shorter {a x : Addr} {m n : Nat} (h : (⟨a, n⟩ : Window).has x = false) (hmn : m ≤ n) :
    (⟨a, m⟩ : Window).has x = false := by
  simp only [Window.has, decide_eq_false_iff_not, Nat.not_lt] at h ⊢
  exact hmn.trans h

/-- A window that is empty unless a condition holds. -/
theorem ite_window_has_iff (p : Prop) [Decidable p] (v : Window) (a x : Addr) :
    (if p then v else ⟨a, 0⟩).has x = true ↔ p ∧ v.has x = true := by
  by_cases h : p <;> simp [h]

/-! ## The windows of each command -/

/-- DEC_LEN may read the last two symbols (20_memory.md R62). -/
theorem lastTwo_has_iff (a x : Addr) (n : Nat) (h : 2 ≤ n) :
    (⟨elementAddr a (n - 2), 2⟩ : Window).has x = true ↔ x = elementAddr a (n - 1) ∨ x = elementAddr a (n - 2) := by
  have last : n - 2 + 1 = n - 1 := by omega
  rw [window_has_iff]
  constructor
  · rintro ⟨j, hj, rfl⟩
    obtain rfl | rfl : j = 0 ∨ j = 1 := by omega
    · exact .inr (elementAddr_add a (n - 2) 0)
    · exact .inl (by rw [elementAddr_add, last])
  · rintro (rfl | rfl)
    · exact ⟨1, by omega, by rw [elementAddr_add, last]⟩
    · exact ⟨0, by omega, (elementAddr_add a (n - 2) 0).symm⟩

/-- Settles O15: each window's interval is the set of its elements' addresses, empty where the rule's condition fails. -/
theorem sourceWindowIsTheRulesSet : Obligations.SourceWindowIsTheRulesSet := by
  intro s a
  refine ⟨window_has_iff _ _ a, ?_, ?_, Window.has_empty _ a, Window.has_empty _ a, Window.has_empty _ a,
    Window.has_empty _ a, Window.has_empty _ a⟩
  · exact (ite_window_has_iff _ _ _ a).trans (and_congr_right fun _ => window_has_iff _ _ a)
  · refine (ite_window_has_iff _ _ _ a).trans ?_
    rw [and_assoc]
    exact and_congr_right fun h4 => and_congr_right fun h0 => lastTwo_has_iff s.lsrc a s.count (by omega)

/-- Settles O16, as O15; the lengths are those of 30-bit counts. -/
theorem destinationWindowIsTheRulesSet : Obligations.DestinationWindowIsTheRulesSet := by
  intro s a
  refine ⟨window_has_iff _ _ a, ?_, Window.has_empty _ a, Window.has_empty _ a, Window.has_empty _ a,
    Window.has_empty _ a, Window.has_empty _ a, Window.has_empty _ a,
    fun i => ⟨srcWindow_len_lt i s, dstWindow_len_lt i s⟩⟩
  exact (ite_window_has_iff _ _ _ a).trans (and_congr_right fun _ => window_has_iff _ _ a)

end Sys2Proof.Machine
end

section
/-! PROOFS. The commands the spec calls UNDEFINED are refused at the CMD write and in exec (20_memory.md R69, R71; log
entry 11). -/

namespace Sys2Proof.Machine

open Sys2Proof

/-- An illegal command's windows are empty, so a command with an address in one is legal. -/
theorem legal_of_window_has {i : Instr} {s : State} {a : Addr}
    (h : (srcWindow i s).has a = true ∨ (dstWindow i s).has a = true) : i.legal = true := by
  cases i with
  | encode | decode | encLen | decLen => rfl
  | illegal0 | illegal5 | illegal6 | illegal7 => simp [srcWindow, dstWindow] at h

/-- The CMD write that would start a command that is UNDEFINED with its operands is refused. -/
theorem step_cmd_undefined {s : State} {w : Word} {r : Refusal} (hb : s.busy = false)
    (hl : (decodeWord w).legal = true) (hu : undefinedCommand (decodeWord w) (latch w s) = some r) :
    step (s.withWrite .cmd w) = .refused r := by
  rw [step_withWrite]
  simp [writeReg, writeCmd, acceptCommand, hb, hl, hu, Turn.outcome]

/-- A shared address makes the command UNDEFINED by R71. -/
theorem undefinedCommand_of_shared {i : Instr} {s : State} {a : Addr} (hsrc : (srcWindow i s).has a = true)
    (hdst : (dstWindow i s).has a = true) : undefinedCommand i s = some .overlappingWindows :=
  if_pos ((Window.overlaps_iff _ _).2 ⟨a, hsrc, hdst⟩)

/-- Settles O13: by `undefinedCommand_of_shared`, in the state exec is given and in the one the CMD write latches. -/
theorem overlappingBuffersAreRefused : Obligations.OverlappingBuffersAreRefused := by
  intro s i
  refine ⟨fun a hsrc hdst => ?_, ?_⟩
  · exact exec_undefined i s _ (legal_of_window_has (.inl hsrc)) (undefinedCommand_of_shared hsrc hdst)
  · rintro w a hb rfl hsrc hdst
    exact step_cmd_undefined hb (legal_of_window_has (.inl hsrc)) (undefinedCommand_of_shared hsrc hdst)

/-- The addresses with side effects are those of the devices and of the block's own window (20_memory.md R69, U10). -/
theorem sideEffects_has_iff (s : State) (a : Addr) :
    anyHas s.sideEffects a = true ↔ s.registerWindow.has a = true ∨ anyHas s.devices a = true := by
  simp [anyHas, State.sideEffects]

/-- Where the windows are disjoint, a side-effect address in one of them makes the command UNDEFINED by R69. -/
theorem undefinedCommand_of_sideEffect {i : Instr} {s : State} {a : Addr}
    (hd : ∀ b, (srcWindow i s).has b = true → (dstWindow i s).has b = false)
    (ha : anyHas s.sideEffects a = true) (hw : (srcWindow i s).has a = true ∨ (dstWindow i s).has a = true) :
    undefinedCommand i s = some .sideEffectWindow := by
  have disjoint : ¬ (srcWindow i s).overlaps (dstWindow i s) = true := by
    rw [Window.overlaps_iff]
    rintro ⟨b, hsrc, hdst⟩
    simp [hd b hsrc] at hdst
  rw [undefinedCommand, if_neg disjoint, if_pos]
  rw [Bool.or_eq_true, anyOverlaps_iff, anyOverlaps_iff]
  exact hw.imp (fun h => ⟨a, ha, h⟩) (fun h => ⟨a, ha, h⟩)

/-- Settles O14: by `undefinedCommand_of_sideEffect`; latching moves neither BASE nor the devices. -/
theorem sideEffectWindowsAreRefused : Obligations.SideEffectWindowsAreRefused := by
  intro s i a ha
  have hs : anyHas s.sideEffects a = true := (sideEffects_has_iff s a).2 ha.symm
  refine ⟨fun hd hw => ?_, ?_⟩
  · exact exec_undefined i s _ (legal_of_window_has hw) (undefinedCommand_of_sideEffect hd hs hw)
  · rintro w hb rfl hd hw
    exact step_cmd_undefined hb (legal_of_window_has hw) (undefinedCommand_of_sideEffect hd hs hw)

end Sys2Proof.Machine
end

section
/-! PROOFS. The frame of every command: memory outside DW, and the registers besides completion (20_memory.md R65,
10_state.md R45). -/

namespace Sys2Proof.Machine

open Sys2Proof

/-! ## How many bytes DECODE writes -/

/-- A group gives at most three bytes (42_decode.md R153 to R155). -/
theorem groupBytes_length_le (c0 c1 c2 c3 : SymbolClass) : (groupBytes c0 c1 c2 c3).length ≤ 3 := by
  unfold groupBytes
  split <;> simp

theorem packGroups_length_le (cs : List SymbolClass) : (packGroups cs).length ≤ 3 * (cs.length / 4) := by
  induction cs using packGroups.induct with
  | case1 c0 c1 c2 c3 rest ih =>
    have hg := groupBytes_length_le c0 c1 c2 c3
    simp only [packGroups, List.length_append, List.length_cons]
    omega
  | case2 cs h => simp [packGroups]

/-- A text that decodes gives at most three bytes for each of its groups. -/
theorem decodeText_ok_length_le {t bytes : List Byte} (h : decodeText t = .ok bytes) :
    bytes.length ≤ 3 * (t.length / 4) := by
  unfold decodeText at h
  split at h
  · cases h
  · split at h
    · cases h
    · cases h
      simpa using packGroups_length_le (t.map decodeTable)

theorem allRead_engineReads_length {s : State} {a : Addr} {n : Nat} {bs : List Byte}
    (h : allRead (engineReads s a n) = some bs) : bs.length = n := by
  rw [allRead_some_length _ _ h, engineReads_length]

/-! ## Memory outside DW -/

/-- Writing a sequence that stands within a window from its start leaves every byte outside the window alone. -/
theorem sameOutside_writeBytes {s t : State} {w : Window} {bs : List Byte} (hlen : bs.length ≤ w.len)
    (hw : w.len ≤ 2 ^ 32) (ht : t.mem = writeBytes s.mem w.start bs) : SameOutside w s t := by
  intro x hx
  unfold State.memByte
  rw [ht, read_writeBytes_outside _ _ _ _ (Window.has_shorter hx hlen) (hlen.trans hw)]

/-- A command that ends with an error makes its DW UNPREDICTABLE and no other byte. -/
theorem sameOutside_failCommand (i : Instr) (kind : ErrorKind) (s : State) :
    SameOutside (dstWindow i s) s (failCommand i kind s) :=
  fun x hx => memByte_scramble_outside _ s x hx (dstWindow_len_lt i s).le

theorem sameOutside_encodeCommand (s : State) : SameOutside (dstWindow .encode s) s (encodeCommand s) := by
  rcases encodeCommand_cases s with h | ⟨b, hb, h⟩
  · exact h ▸ sameOutside_failCommand .encode _ s
  · rw [h]
    refine sameOutside_writeBytes (bs := encodeBytes b) ?_ (dstWindow_len_lt .encode s).le rfl
    rw [encodeBytes_length, allRead_engineReads_length hb]
    exact Nat.le_refl _

theorem sameOutside_decodeCommand (s : State) : SameOutside (dstWindow .decode s) s (decodeCommand s) := by
  rcases decodeCommand_cases s with ⟨kind, u, h, rfl | rfl⟩ | ⟨t, bytes, ht, hok, h4, h⟩
  · exact h ▸ sameOutside_failCommand .decode kind _
  · exact h ▸ sameOutside_failCommand .decode kind { s with freeCount := s.freeCount + 1 }
  · have hlen : bytes.length ≤ 3 * (s.count / 4) := by
      simpa [allRead_engineReads_length ht] using decodeText_ok_length_le hok
    have hdw : dstWindow .decode s = ⟨s.ldst, 3 * (s.count / 4)⟩ := if_pos h4
    rw [h]
    refine sameOutside_writeBytes (bs := bytes) ?_ (dstWindow_len_lt .decode s).le ?_
    · rwa [hdw]
    · rw [hdw]
      rfl

theorem sameOutside_decLenCommand (s : State) : SameOutside (dstWindow .decLen s) s (decLenCommand s) := by
  rcases decLenCommand_cases s with ⟨kind, h⟩ | ⟨n, h⟩
  · exact h ▸ sameOutside_failCommand .decLen kind s
  · exact h ▸ fun _ _ => rfl

/-- Each command's frame of memory; the engine's working state is no memory. -/
theorem exec_sameOutside {i : Instr} {s t : State} (h : exec i s = .next t) : SameOutside (dstWindow i s) s t := by
  cases i with
  | encode =>
    obtain ⟨-, rfl⟩ := whenDefined_next h
    exact sameOutside_encodeCommand (engineWorked s)
  | decode =>
    obtain ⟨-, rfl⟩ := whenDefined_next h
    exact sameOutside_decodeCommand (engineWorked s)
  | decLen =>
    obtain ⟨-, rfl⟩ := whenDefined_next h
    exact sameOutside_decLenCommand (engineWorked s)
  | encLen =>
    obtain ⟨-, rfl⟩ := whenDefined_next h
    exact fun _ _ => rfl
  | illegal0 | illegal5 | illegal6 | illegal7 =>
    cases h
    exact fun _ _ => rfl

/-! ## The registers -/

/-- Both forms of the completion step change the completion registers only. -/
theorem exec_sameBesidesResult {i : Instr} {s t : State} (h : exec i s = .next t) : SameBesidesResult s t := by
  rcases exec_cases h with ⟨kind, u, rfl, hs, -⟩ | ⟨n, u, rfl, hs, -⟩ | rfl
  · exact hs
  · exact hs
  · simp [SameBesidesResult]

/-- Settles O44: `exec_sameOutside` for memory and `exec_sameBesidesResult` for the registers. -/
theorem commandsWriteOnlyTheDestinationWindow : Obligations.CommandsWriteOnlyTheDestinationWindow :=
  fun _ _ _ h => ⟨exec_sameOutside h, exec_sameBesidesResult h⟩

end Sys2Proof.Machine
end

section
/-! PROOFS. Host stores and loads of system memory (20_memory.md R60, R61, R65, R72). -/

namespace Sys2Proof.Machine

open Sys2Proof

/-! ## Stores -/

/-- A store that touches no register is a store to system memory. -/
theorem step_busWrite_memory {s : State} {a : Addr} {bytes : List Byte} (q : Requester)
    (h : ∀ k, k < bytes.length → s.registerWindow.has (elementAddr a k) = false) :
    step (s.withEvent (.busWrite q a bytes)) = (hostStore a bytes s).outcome := by
  have hr : s.touchesRegisters a bytes.length = false := overlaps_false _ _ _ h
  rw [step_eq_outcome, turn_withEvent, deliver, busWrite, hr]
  rfl

/-- R72: a store that writes a byte of SW or DW of the executing command is refused. -/
theorem hostStore_running {s : State} {a : Addr} {bytes : List Byte} {j : Nat} (hj : j < bytes.length)
    (hd : ∀ k, k < bytes.length → anyHas s.devices (elementAddr a k) = false)
    (hw : s.runningSrc.has (elementAddr a j) = true ∨ s.runningDst.has (elementAddr a j) = true) :
    hostStore a bytes s = .refused .windowWrittenWhileBusy := by
  have touched : s.runningSrc.overlaps ⟨a, bytes.length⟩ = true ∨ s.runningDst.overlaps ⟨a, bytes.length⟩ = true := by
    simp only [Window.overlaps_iff]
    have hx := has_elementAddr a bytes.length j hj
    exact hw.imp (fun h => ⟨_, h, hx⟩) (fun h => ⟨_, h, hx⟩)
  simp [hostStore, anyOverlaps_false _ _ _ hd, touched]

/-- Any other store outside the devices is memory's. -/
theorem hostStore_ordinary {s : State} {a : Addr} {bytes : List Byte}
    (hd : ∀ k, k < bytes.length → anyHas s.devices (elementAddr a k) = false)
    (hsrc : ∀ k, k < bytes.length → s.runningSrc.has (elementAddr a k) = false)
    (hdst : ∀ k, k < bytes.length → s.runningDst.has (elementAddr a k) = false) :
    hostStore a bytes s = .next { s with mem := writeBytes s.mem a bytes } := by
  simp [hostStore, anyOverlaps_false _ _ _ hd, overlaps_false _ _ _ hsrc, overlaps_false _ _ _ hdst]

/-- Settles O51: while BUSY the executing command's windows are the ones a store is checked against. -/
theorem windowWritesWhileBusyAreRefused : Obligations.WindowWritesWhileBusyAreRefused := by
  intro s q a bytes j hb hj hw ho
  have hrunning : s.runningSrc.has (elementAddr a j) = true ∨ s.runningDst.has (elementAddr a j) = true := by
    rwa [State.runningSrc, State.runningDst, if_pos hb, if_pos hb]
  simp only [imp_and, forall_and] at ho
  obtain ⟨hreg, hdev⟩ := ho
  rw [step_busWrite_memory q hreg, hostStore_running hj hdev hrunning]
  rfl

/-! ## Loads -/

/-- A load that touches no register is a load from system memory. -/
theorem step_busRead_memory {s : State} {a : Addr} {size : Nat}
    (h : ∀ k, k < size → s.registerWindow.has (elementAddr a k) = false) :
    step (s.withEvent (.busRead a size)) = (hostLoad a size s).outcome := by
  have hr : s.touchesRegisters a size = false := overlaps_false _ _ _ h
  rw [step_eq_outcome, turn_withEvent, deliver, busRead, hr]
  rfl

theorem bytesAt_succ (s : State) (a : Addr) (n : Nat) :
    s.bytesAt a (n + 1) = s.memByte a :: s.bytesAt (elementAddr a 1) n := by
  simp [State.bytesAt, List.range_succ_eq_map, elementAddr_add, Nat.add_comm]

/-- Outside DW of the executing command a load returns memory's bytes. -/
theorem loadedBytes_eq_bytesAt (s : State) (n size : Nat) (a : Addr)
    (h : ∀ k, k < size → s.runningDst.has (elementAddr a k) = false) :
    loadedBytes s n a size = s.bytesAt a size := by
  induction size generalizing n a with
  | zero => rfl
  | succ size ih =>
    have first : s.runningDst.has a = false := by simpa using h 0 (Nat.succ_pos _)
    have rest : ∀ k, k < size → s.runningDst.has (elementAddr (elementAddr a 1) k) = false := by
      intro k hk
      rw [elementAddr_add]
      exact h (1 + k) (by omega)
    rw [bytesAt_succ, ← ih (n + 1) _ rest, loadedBytes, first]
    rfl

/-- A load outside the devices and DW changes only what the host has read. -/
theorem hostLoad_ordinary {s : State} {a : Addr} {size : Nat}
    (hd : ∀ k, k < size → anyHas s.devices (elementAddr a k) = false)
    (hdst : ∀ k, k < size → s.runningDst.has (elementAddr a k) = false) :
    hostLoad a size s = .next { s with reads := s.bytesAt a size :: s.reads } := by
  simp [hostLoad, keepRead, anyOverlaps_false _ _ _ hd, overlaps_false _ _ _ hdst, loadedBytes_eq_bytesAt _ _ _ _ hdst]

/-! ## No read has a side effect -/

/-- A read of a register or of memory is refused, or the host keeps bytes and free values are drawn (10_state.md R23). -/
theorem busRead_cases (a : Addr) (size : Nat) (s : State) :
    (∃ q, busRead a size s = .refused q) ∨
      ∃ bytes n, busRead a size s = .next { s with reads := bytes :: s.reads, freeCount := n } := by
  unfold busRead
  split
  · unfold registerRead
    split
    · split
      · exact .inr ⟨_, _, rfl⟩
      · exact .inl ⟨_, rfl⟩
    · exact .inl ⟨_, rfl⟩
  · unfold hostLoad
    split
    · exact .inl ⟨_, rfl⟩
    · exact .inr ⟨_, _, rfl⟩

/-- An answered read changes what the host has read and the model's counter of free values, and nothing else. -/
theorem step_busRead_frame {s t : State} {a : Addr} {size : Nat}
    (h : step (s.withEvent (.busRead a size)) = .next t) :
    { t with reads := s.reads, freeCount := s.freeCount } = s := by
  rw [step_eq_outcome, turn_withEvent, deliver] at h
  rcases busRead_cases a size s with ⟨q, hq⟩ | ⟨bytes, n, hn⟩
  · rw [hq] at h
    cases h
  · rw [hn] at h
    cases h
    rfl

/-- Settles O52, in the order of its clauses: stores, loads, and the frame of every answered read. -/
theorem hostMemoryAccessesAreOrdinary : Obligations.HostMemoryAccessesAreOrdinary := by
  refine ⟨fun s q a bytes hlen h => ?_, fun s a size _ h => ?_, fun s t a size h => step_busRead_frame h⟩
  · simp only [imp_and, forall_and] at h
    obtain ⟨hreg, hdev, hsrc, hdst⟩ := h
    refine ⟨{ s with mem := writeBytes s.mem a bytes }, ?_, bytesAt_writeBytes s _ a bytes hlen rfl,
      sameOutside_writeBytes (w := ⟨a, bytes.length⟩) (Nat.le_refl _) hlen rfl, rfl⟩
    rw [step_busWrite_memory q hreg, hostStore_ordinary hdev hsrc hdst]
    rfl
  · simp only [imp_and, forall_and] at h
    obtain ⟨hreg, hdev, hdst⟩ := h
    rw [step_busRead_memory hreg, hostLoad_ordinary hdev hdst]
    rfl

end Sys2Proof.Machine
end

section
/-! PROOFS. Command words: the bytes of every word decode to the command of its OP, and only OP has an effect
(30_encoding.md R91 to R95). -/

namespace Sys2Proof.Machine

open Sys2Proof Sys2Proof.Laws

/-! ## The decoders on the encodings of a word -/

/-- Every row's words decode to its command, whatever the ignored bits (30_encoding.md R91, R94). -/
theorem decodeWord_commandWord (ignored : BitVec 29) (i : Instr) : decodeWord (commandWord ignored i) = i := by
  rw [decodeWord, commandOp_commandWord]
  cases i <;> rfl

/-- The byte decoder reads the first word and leaves the rest (30_encoding.md R95). -/
theorem decodeBytes_bytesOfWord (w : Word) (rest : List Byte) :
    decodeBytes (bytesOfWord w ++ rest) = .command (decodeWord w) rest := by
  conv_rhs => rw [← wordOfBytes_bytesOfWord w]
  rfl

/-- The table-word decoder reads the same command from the word as a number. -/
theorem decodeTableWord_toNat (w : Word) : decodeTableWord 32 w.toNat = some (decodeWord w) := by
  have bytes : decodeBytes (tableBytes 32 w.toNat) = .command (decodeWord w) [] := by
    rw [tableBytes_word, ← List.append_nil (bytesOfWord w), decodeBytes_bytesOfWord]
  rw [decodeTableWord, bytes]

/-- Settles O2: each decoder makes `decodeWord` of the word, and that is the row's command. -/
theorem decodeOfEncodeIsTheCommand : Obligations.DecodeOfEncodeIsTheCommand := by
  intro i ignored rest _
  refine ⟨?_, ?_, ?_, ?_⟩
  · rw [decodeBytes_bytesOfWord, decodeWord_commandWord]
  · rw [encodeBus, encode, decodeBytes_bytesOfWord, decodeWord_commandWord]
  · rw [decodeTableWord_toNat, decodeWord_commandWord]
  · cases i <;> decide

/-- Settles O1: each word is written as its ignored bits and its OP. -/
theorem commandWordsDecode : Obligations.CommandWordsDecode :=
  ⟨decodeWord_commandWord 0#29 .encode, decodeWord_commandWord 0x1FFFFFFF#29 .encode,
    decodeWord_commandWord 0#29 .decode, decodeWord_commandWord 0#29 .encLen, decodeWord_commandWord 0#29 .decLen,
    decodeWord_commandWord 0#29 .illegal0, decodeWord_commandWord 1#29 .illegal0,
    decodeWord_commandWord 0#29 .illegal5, decodeWord_commandWord 0#29 .illegal6,
    decodeWord_commandWord 0#29 .illegal7⟩

/-! ## What a CMD write reads of its word -/

/-- The start latches only OP of the word, and the command is OP's (30_encoding.md R92, 10_state.md R37). -/
theorem writeCmd_congr {v w : Word} (h : commandOp v = commandOp w) (s : State) : writeCmd v s = writeCmd w s := by
  have latched : latch v s = latch w s := by rw [latch, h, latch]
  have decoded : decodeWord v = decodeWord w := by rw [decodeWord, h, decodeWord]
  rw [writeCmd, acceptCommand, latched, decoded, writeCmd, acceptCommand]

/-- Settles O3: both steps are the CMD write's, which reads only OP. -/
theorem ignoredBitsChangeNothing : Obligations.IgnoredBitsChangeNothing := by
  intro s v w h
  rw [step_withWrite, step_withWrite]
  exact congrArg Turn.outcome (writeCmd_congr h s)

end Sys2Proof.Machine
end

section
/-! PROOFS. Runs: a POLL ends with the command it waits for (30_encoding.md R96, 70_reset_and_hazards.md R231), and the
writes of a pseudo-command, a line a step (30_encoding.md R97). -/

namespace Sys2Proof.Machine

open Sys2Proof

/-! ## Runs -/

/-- A run goes on from where its first step leads. -/
theorem run_succ_of_step {s t : State} (h : step s = .next t) (k : Nat) :
    Sys2Proof.core.run (k + 1) s = Sys2Proof.core.run k t := by
  simp [Host.Core.run, Sys2Proof.core, h]

/-- A run of one step is the step. -/
theorem run_one (s : State) : Sys2Proof.core.run 1 s = step s := by
  simp only [Host.Core.run, Sys2Proof.core]
  cases step s <;> rfl

/-! ## POLL -/

/-- The host has read STATUS once more. -/
def State.polled (s : State) : State := keepRead (bytesOfWord s.statusWord) s

/-- A BUSY read of POLL that is not the last before the engine's step. -/
theorem step_poll_busy_succ {s : State} (h : s.busy = true) (n : Nat) :
    step (s.withEvent (.poll (n + 1))) = .next (s.polled.withEvent (.poll n)) := by
  rw [step_eq_outcome, turn_withEvent, deliver]
  unfold pollRound
  rw [if_pos h]
  rfl

/-- The last BUSY read of POLL lets the engine take its step (log entry 14). -/
theorem step_poll_busy_zero {s : State} (h : s.busy = true) :
    step (s.withEvent (.poll 0)) = .next ((s.polled.withEvent (.poll 0)).withEvent .engine) := by
  rw [step_eq_outcome, turn_withEvent, deliver]
  unfold pollRound
  rw [if_pos h]
  rfl

/-- The read that finds BUSY 0 ends POLL. -/
theorem step_poll_idle {s : State} {n : Nat} {rest : List Event} (h : s.busy = false)
    (hi : s.inbox = .poll n :: rest) : step s = .next (State.polled { s with inbox := rest }) := by
  simp [step, turn, hi, deliver, pollRound, h, State.polled]

/-- What the host has read and what is still to come decide nothing about the windows of a command. -/
theorem undefinedCommand_withReadsInbox (i : Instr) (s : State) (reads : List (List Byte)) (inbox : List Event) :
    undefinedCommand i { s with reads := reads, inbox := inbox } = undefinedCommand i s := by
  cases i <;> rfl

/-- The engine's step ends a defined command; it takes no other event and returns nothing to the host. -/
theorem step_engine_completes {s : State} (hb : s.busy = true) (hd : WindowsDefined (decodeOp s.lop) s) :
    ∃ t, step (s.withEvent .engine) = .next t ∧ t.busy = false ∧ t.done = true ∧ t.inbox = s.inbox ∧
      t.reads = s.reads := by
  obtain ⟨t, ht, hdone, hbusy⟩ := definedCommandsComplete _ s hd
  obtain ⟨-, -, -, -, -, -, -, -, -, -, -, -, -, -, hinbox, hreads⟩ := exec_sameBesidesResult ht
  exact ⟨t, (step_engine_busy hb).trans ht, hbusy, hdone, hinbox, hreads⟩

/-- Settles O56, by induction on the BUSY reads: the last one brings the engine's step, and the read after it ends
POLL. -/
theorem pollEndsWithTheCommand : Obligations.PollEndsWithTheCommand := by
  intro s n hb hd
  induction n generalizing s with
  | zero =>
    obtain ⟨t, ht, hbusy, hdone, hinbox, hreads⟩ := step_engine_completes (s := s.polled.withEvent (.poll 0)) hb
      ((undefinedCommand_withReadsInbox _ s _ _).trans hd)
    have hrun : Sys2Proof.core.run 3 (s.withEvent (.poll 0)) = .next (State.polled { t with inbox := s.inbox }) := by
      rw [run_succ_of_step (step_poll_busy_zero hb), run_succ_of_step ht, run_one]
      exact step_poll_idle hbusy hinbox
    refine ⟨_, hrun, hbusy, hdone, rfl, ?_, rfl⟩
    simp [State.polled, hreads, State.withEvent]
  | succ n ih =>
    obtain ⟨t, hrun, hbusy, hdone, hinbox, hreads, hlast⟩ := ih s.polled hb
      ((undefinedCommand_withReadsInbox _ s _ s.inbox).trans hd)
    refine ⟨t, (run_succ_of_step (step_poll_busy_succ hb n) _).trans hrun, hbusy, hdone, hinbox, ?_, hlast⟩
    rw [hreads, State.polled, keepRead_reads, List.length_cons]
    omega

/-! ## Scripts of register writes -/

/-- With nothing else to come, the first W line of a script is the next event. -/
theorem withScript_write {s : State} (hi : s.inbox = []) (r : Reg) (w : Word) (lines : List HostLine) :
    s.withScript (.write r w :: lines) = (s.withScript lines).withWrite r w := by
  simp [State.withScript, State.withWrite, State.withEvent, HostLine.event, State.addrOf, hi]

/-- A script of one W line is the host's write. -/
theorem run_withScript_last {s : State} (hi : s.inbox = []) (r : Reg) (w : Word) :
    Sys2Proof.core.run 1 (s.withScript [.write r w]) = step (s.withWrite r w) := by
  rw [run_one, withScript_write hi, State.withScript, List.map_nil, List.append_nil]

/-! ## The pseudo-commands that start a command -/

/-- The windows of a command that would start are given by the operand registers (10_state.md R37). -/
theorem undefinedCommand_latch (i : Instr) (w : Word) (s : State) :
    undefinedCommand i (latch w s) =
      undefinedCommand i { s with lsrc := s.srcAddr, llen := s.srcLen, ldst := s.dstAddr } := by
  cases i <;> rfl

/-- The state a start leaves: the operand registers as given, latched with OP, and BUSY (10_state.md R37). -/
def started (op : BitVec 3) (src : Addr) (len : Length) (dst : Addr) (s : State) : State :=
  { withOperandRegs src len dst s with
    lop := op, lsrc := src, llen := len, ldst := dst, done := false, errCode := 0#4, result := 0#32, busy := true }

section
variable {s : State} {src src' dst dst' : Addr} {len len' : Length} {lines : List HostLine} (hi : s.inbox = [])
  (w : Word) (k : Nat)
include hi

/-- A W line that changes at most an operand register is one step, which leaves the lines after it. -/
theorem run_operandWrite {r : Reg}
    (h : writeReg r w ((withOperandRegs src len dst s).withScript lines) =
      .next ((withOperandRegs src' len' dst' s).withScript lines)) :
    Sys2Proof.core.run (k + 1) ((withOperandRegs src len dst s).withScript (.write r w :: lines)) =
      Sys2Proof.core.run k ((withOperandRegs src' len' dst' s).withScript lines) := by
  apply run_succ_of_step
  rw [withScript_write (s := withOperandRegs src len dst s) hi, step_withWrite, h]
  rfl

/-- One step for each operand line, and the next line finds the operand written (30_encoding.md R97). -/
theorem run_write_srcAddr :
    Sys2Proof.core.run (k + 1) ((withOperandRegs src len dst s).withScript (.write .srcAddr w :: lines)) =
      Sys2Proof.core.run k ((withOperandRegs w len dst s).withScript lines) := run_operandWrite hi w k rfl

theorem run_write_srcLen :
    Sys2Proof.core.run (k + 1) ((withOperandRegs src len dst s).withScript (.write .srcLen w :: lines)) =
      Sys2Proof.core.run k ((withOperandRegs src (w.setWidth 30) dst s).withScript lines) :=
  run_operandWrite hi w k rfl

theorem run_write_dstAddr :
    Sys2Proof.core.run (k + 1) ((withOperandRegs src len dst s).withScript (.write .dstAddr w :: lines)) =
      Sys2Proof.core.run k ((withOperandRegs src len w s).withScript lines) := run_operandWrite hi w k rfl

end

/-- The last line of a pseudo-command, its CMD write, where the operand registers hold what was given. -/
theorem run_cmd_started {s : State} {i : Instr} {src dst : Addr} {len : Length} (hi : s.inbox = [])
    (hb : s.busy = false) (hl : i.legal = true)
    (hd : WindowsDefined i { s with lsrc := src, llen := len, ldst := dst }) :
    Sys2Proof.core.run 1 ((withOperandRegs src len dst s).withScript [.write .cmd (encode i)]) =
      .next (started i.opcode src len dst s) := by
  have decoded : decodeWord (encode i) = i := decodeWord_commandWord 0#29 i
  have defined : WindowsDefined i (latch (encode i) (withOperandRegs src len dst s)) := by
    rw [WindowsDefined, undefinedCommand_latch, ← hd]
    exact undefinedCommand_withOperandRegs src len dst { s with lsrc := src, llen := len, ldst := dst } i
  have written := acceptedStartLatchesTheOperands (withOperandRegs src len dst s) (encode i) hb
    (by rwa [decoded]) (by rwa [decoded])
  rw [← Laws.commandOp_commandWord 0#29 i]
  exact (run_withScript_last (s := withOperandRegs src len dst s) hi .cmd (encode i)).trans written

/-- ENCODE and DECODE: three operand writes and the CMD write. -/
theorem run_allOperands_started {s : State} {i : Instr} (hi : s.inbox = []) (hb : s.busy = false)
    (hl : i.legal = true) {src len dst : Word}
    (hd : WindowsDefined i { s with lsrc := src, llen := len.setWidth 30, ldst := dst }) :
    Sys2Proof.core.run 4
        (s.withScript [.write .srcAddr src, .write .srcLen len, .write .dstAddr dst, .write .cmd (encode i)]) =
      .next (started i.opcode src (len.setWidth 30) dst s) := by
  change Sys2Proof.core.run 4 ((withOperandRegs s.srcAddr s.srcLen s.dstAddr s).withScript _) = _
  rw [run_write_srcAddr hi, run_write_srcLen hi, run_write_dstAddr hi]
  exact run_cmd_started hi hb hl hd

/-- DEC_LEN: DST_ADDR keeps its value. -/
theorem run_decLen_started {s : State} (hi : s.inbox = []) (hb : s.busy = false) {src len : Word}
    (hd : WindowsDefined .decLen { s with lsrc := src, llen := len.setWidth 30, ldst := s.dstAddr }) :
    Sys2Proof.core.run 3 (s.withScript (Pseudo.decLen src len).expand) =
      .next (started 4#3 src (len.setWidth 30) s.dstAddr s) := by
  change Sys2Proof.core.run 3 ((withOperandRegs s.srcAddr s.srcLen s.dstAddr s).withScript _) = _
  rw [Pseudo.expand, run_write_srcAddr hi, run_write_srcLen hi]
  exact run_cmd_started (i := .decLen) hi hb rfl hd

/-- ENC_LEN: SRC_ADDR and DST_ADDR keep their values, and no operand makes it UNDEFINED. -/
theorem run_encLen_started {s : State} (hi : s.inbox = []) (hb : s.busy = false) (len : Word) :
    Sys2Proof.core.run 2 (s.withScript (Pseudo.encLen len).expand) =
      .next (started 3#3 s.srcAddr (len.setWidth 30) s.dstAddr s) := by
  change Sys2Proof.core.run 2 ((withOperandRegs s.srcAddr s.srcLen s.dstAddr s).withScript _) = _
  rw [Pseudo.expand, run_write_srcLen hi]
  exact run_cmd_started (i := .encLen) hi hb rfl (undefinedCommand_encLen _)

/-! ## All pseudo-commands -/

/-- A pseudo-command of one register write, which does what the write does. -/
theorem run_single_write {s t : State} {r : Reg} {w : Word} (hi : s.inbox = []) (h : writeReg r w s = .next t) :
    Sys2Proof.core.run 1 (s.withScript [.write r w]) = .next t := by
  rw [run_withScript_last hi, step_withWrite, h]
  rfl

/-- Settles O57: the four starts, each word the encoder's, and the four single writes. -/
theorem pseudoCommandsDoWhatTheySay : Obligations.PseudoCommandsDoWhatTheySay := by
  intro s src len dst hi
  refine ⟨fun hb => ⟨fun hd => ?_, fun hd => ?_, ?_, fun hd => ?_⟩, ?_, ?_, ?_, ?_⟩
  · exact run_allOperands_started (i := .encode) hi hb rfl hd
  · exact run_allOperands_started (i := .decode) hi hb rfl hd
  · exact run_encLen_started hi hb len
  · exact run_decLen_started hi hb hd
  · exact run_single_write hi (r := .status) (w := 0x2#32) rfl
  · exact run_single_write hi (r := .status) (w := 0x8#32) rfl
  · exact run_single_write hi (r := .ctrl) (w := 0x1#32) rfl
  · exact run_single_write hi (r := .ctrl) (w := 0x0#32) rfl

end Sys2Proof.Machine
end

section
/-! PROOFS. The Size Calculator's functions: the forms of encoded_length (40_size_calculator.md R110), decoded_length by the
padding of a text (R111), and decoded_length of an encoding (R112). -/

namespace Sys2Proof.Machine

open Sys2Proof

/-! ## encoded_length -/

/-- Clearing the two low bits of a word rounds it down to a multiple of 4. -/
theorem clearLowTwo_toNat (w : Word) : (w &&& ~~~(3#32)).toNat = w.toNat / 4 * 4 := by
  have mask : ~~~(3#32) = BitVec.allOnes 32 <<< 2 := by decide
  rw [mask, ← BitVec.shiftLeft_ushiftRight, BitVec.toNat_shiftLeft, BitVec.toNat_ushiftRight]
  have hw := w.isLt
  simp only [Nat.shiftRight_eq_div_pow, Nat.shiftLeft_eq]
  omega

/-- R110's form in 32-bit arithmetic: with n below 2^30 the sum before the mask is not reduced. -/
theorem encodedLength_eq_masked {n : Nat} (h : n < 2 ^ 30) :
    encodedLength n = (BitVec.ofNat 32 (4 * n / 3 + 3) &&& ~~~(3#32)).toNat := by
  rw [clearLowTwo_toNat, BitVec.toNat_ofNat, Nat.mod_eq_of_lt (by omega), encodedLength]
  omega

/-- Settles O18: the masked form by `encodedLength_eq_masked`, the rest is arithmetic of natural numbers. -/
theorem encodedLengthFormsAgree : Obligations.EncodedLengthFormsAgree := by
  refine ⟨fun n h => ⟨rfl, ?_, encodedLength_eq_masked h, ?_, ?_⟩, rfl⟩
  · rw [encodedLength]
    omega
  · omega
  · rw [encodedLength]
    omega

/-! ## decoded_length by the padding of the text -/

/-- How many `=` the last two symbols of a text are, as R111 counts them: the p of its pseudocode, 0 for the empty text. -/
def textPadding (t : List Byte) : Nat :=
  if t[t.length - 1]? = some padSymbol then
    if t[t.length - 2]? = some padSymbol then 2 else 1
  else 0

theorem textPadding_le_two (t : List Byte) : textPadding t ≤ 2 := by
  unfold textPadding
  split_ifs <;> decide

theorem decodedLength_invalidLength {t : List Byte} (h : t.length % 4 ≠ 0) : decodedLength t = .err .invalidLength :=
  if_pos h

/-- R111 on whole groups, the empty text among them. -/
theorem decodedLength_of_groups {t : List Byte} (h : t.length % 4 = 0) :
    decodedLength t = .ok (t.length / 4 * 3 - textPadding t) := by
  by_cases h0 : t.length = 0 <;> simp [decodedLength, textPadding, h, h0]

/-- The padding is that of the last two symbols, whatever stands before them. -/
theorem textPadding_append (g : List Byte) {t : List Byte} (ht : 2 ≤ t.length) :
    textPadding (g ++ t) = textPadding t := by
  have fromEnd : ∀ k, k ≤ 2 → (g ++ t)[(g ++ t).length - k]? = t[t.length - k]? := fun k hk => by
    rw [List.length_append, List.getElem?_append_right (by omega)]
    congr 1
    omega
  rw [textPadding, textPadding, fromEnd 1 (by decide), fromEnd 2 (by decide)]

/-- A group in front of a text that is not empty adds its three bytes. -/
theorem decodedLength_group_append {g t : List Byte} {n : Nat} (hg : g.length = 4) (ht : t ≠ [])
    (h : decodedLength t = .ok n) : decodedLength (g ++ t) = .ok (n + 3) := by
  have h4 : t.length % 4 = 0 := by
    by_contra h4
    simp [decodedLength_invalidLength h4] at h
  have h0 : 0 < t.length := List.length_pos_of_ne_nil ht
  have hp := textPadding_le_two t
  rw [decodedLength_of_groups h4] at h
  rw [decodedLength_of_groups (by rw [List.length_append]; omega), textPadding_append g (by omega), List.length_append]
  injection h with h
  congr 1
  omega

/-! ## decoded_length of an encoding -/

/-- No symbol of EncodeTable is `=` (10_state.md R40, R41). -/
theorem encodeTable_ne_pad (v : Sextet) : encodeTable v ≠ padSymbol := by
  intro h
  have pad := (decodeTable_pad_iff (encodeTable v)).2 h
  simp [decodeTable_encodeTable] at pad

/-- R112, group by group: a full group stands for three bytes, a tail for as many as it encodes. -/
theorem decodedLength_encodeBytes (b : List Byte) : decodedLength (encodeBytes b) = .ok b.length := by
  induction b using encodeBytes.induct with
  | case1 b0 b1 b2 rest ih =>
    rw [encodeBytes]
    by_cases hr : encodeBytes rest = []
    · have h0 : rest.length = 0 := by simpa [hr, decodedLength] using ih.symm
      simp [hr, decodedLength_of_groups, textPadding, encodeGroup, encodeTable_ne_pad, h0]
    · exact decodedLength_group_append rfl hr ih
  | case2 b0 b1 => simp [encodeBytes, decodedLength_of_groups, textPadding, tail2, encodeTable_ne_pad]
  | case3 b0 => simp [encodeBytes, decodedLength_of_groups, textPadding, tail1]
  | case4 => rfl

/-- Settles O22; the bound on the length is not needed. -/
theorem decodedLengthOfEncodingIsTheLength : Obligations.DecodedLengthOfEncodingIsTheLength :=
  fun b _ => ⟨encodeBytes_length b, decodedLength_encodeBytes b⟩

end Sys2Proof.Machine
end

section
/-! PROOFS. The commands ENC_LEN (40_size_calculator.md R113) and DEC_LEN (R114). -/

namespace Sys2Proof.Machine

open Sys2Proof

/-! ## The two ends of a command -/

@[simp] theorem completed_complete (n : Nat) (s : State) : Completed n (complete n s) := ⟨rfl, rfl, rfl, rfl⟩

@[simp] theorem failed_failCommand (i : Instr) (kind : ErrorKind) (s : State) : Failed kind (failCommand i kind s) :=
  ⟨rfl, rfl, rfl, rfl⟩

/-- A count below 2^32 stands in RESULT exactly. -/
theorem Completed.result_toNat {n : Nat} {t : State} (h : Completed n t) (hn : n < 2 ^ 32) : t.result.toNat = n := by
  rw [h.1, BitVec.toNat_ofNat, Nat.mod_eq_of_lt hn]

/-- A command that may write no address changes no byte. -/
theorem exec_sameMemory {i : Instr} {s t : State} (h : exec i s = .next t) (hw : (dstWindow i s).len = 0) :
    SameMemory s t :=
  fun a => exec_sameOutside h a (by simp [Window.has, hw])

/-! ## ENC_LEN -/

/-- Settles O19: nothing makes ENC_LEN UNDEFINED, and its command is the completion. -/
theorem encLenCompletesWithEncodedLength : Obligations.EncLenCompletesWithEncodedLength := by
  intro s
  have run : exec .encLen s = .next (encLenCommand (engineWorked s)) :=
    whenDefined_eq .encLen encLenCommand s (undefinedCommand_encLen s)
  have completed : Completed (encodedLength s.llen.toNat) (encLenCommand (engineWorked s)) := completed_complete _ _
  exact ⟨_, run, completed, completed.result_toNat (encodedLength_lt _ s.llen.isLt), exec_sameMemory run rfl,
    exec_sameBesidesResult run⟩

/-! ## The lines of DEC_LEN -/

section
variable {s : State} {i : Nat}

theorem symbolRead_refused (h : anyHas s.noRead (elementAddr s.lsrc i) = true) : symbolRead s i = none := if_pos h

theorem symbolRead_answered (h : anyHas s.noRead (elementAddr s.lsrc i) = false) :
    symbolRead s i = some (s.memByte (elementAddr s.lsrc i)) :=
  if_neg (Bool.eq_false_iff.1 h)
end

section
variable {s : State}

theorem failed_decLen_of_length (h : s.count % 4 ≠ 0) : Failed .invalidLength (decLenCommand s) := by
  simp [decLenCommand, h]

theorem completed_decLen_of_empty (h : s.count = 0) : Completed 0 (decLenCommand s) := by
  simp [decLenCommand, h]

variable (h4 : s.count % 4 = 0) (h0 : 0 < s.count)
include h4 h0

theorem failed_decLen_of_lastRefused (h1 : symbolRead s (s.count - 1) = none) :
    Failed .busError (decLenCommand s) := by
  simp [decLenCommand, h4, h0.ne', h1]

theorem completed_decLen_noPad {c : Byte} (h1 : symbolRead s (s.count - 1) = some c) (hc : c ≠ padSymbol) :
    Completed (s.count / 4 * 3) (decLenCommand s) := by
  simp [decLenCommand, h4, h0.ne', h1, hc]

variable (h1 : symbolRead s (s.count - 1) = some padSymbol)
include h1

theorem failed_decLen_of_secondRefused (h2 : symbolRead s (s.count - 2) = none) :
    Failed .busError (decLenCommand s) := by
  simp [decLenCommand, h4, h0.ne', h1, h2]

theorem completed_decLen_onePad {c : Byte} (h2 : symbolRead s (s.count - 2) = some c) (hc : c ≠ padSymbol) :
    Completed (s.count / 4 * 3 - 1) (decLenCommand s) := by
  simp [decLenCommand, h4, h0.ne', h1, h2, hc]

theorem completed_decLen_twoPads (h2 : symbolRead s (s.count - 2) = some padSymbol) :
    Completed (s.count / 4 * 3 - 2) (decLenCommand s) := by
  simp [decLenCommand, h4, h0.ne', h1, h2]
end

/-! ## DEC_LEN -/

/-- Settles O20: one line of the pseudocode per clause, run in `engineWorked s`, which has the memory, refusals and operands
of `s`. -/
theorem decLenFollowsItsPseudocode : Obligations.DecLenFollowsItsPseudocode := by
  intro s hd
  have run : exec .decLen s = .next (decLenCommand (engineWorked s)) := whenDefined_eq .decLen decLenCommand s hd
  refine ⟨_, run, exec_sameMemory run rfl, exec_sameBesidesResult run, ?_, ?_, fun h4 h0 =>
    ⟨fun h1 => ?_, fun h1 => ⟨fun hc => ?_, fun hc => ?_⟩⟩⟩
  · exact failed_decLen_of_length (s := engineWorked s)
  · exact completed_decLen_of_empty (s := engineWorked s)
  · exact failed_decLen_of_lastRefused (s := engineWorked s) h4 h0 (symbolRead_refused h1)
  · exact completed_decLen_noPad (s := engineWorked s) h4 h0 (symbolRead_answered h1) hc
  · have last : symbolRead (engineWorked s) (s.count - 1) = some padSymbol :=
      (symbolRead_answered h1).trans (congrArg some hc)
    refine ⟨fun h2 => ?_, fun h2 => ⟨fun hc2 => ?_, fun hc2 => ?_⟩⟩
    · exact failed_decLen_of_secondRefused (s := engineWorked s) h4 h0 last (symbolRead_refused h2)
    · exact completed_decLen_onePad (s := engineWorked s) h4 h0 last (symbolRead_answered h2) hc2
    · exact completed_decLen_twoPads (s := engineWorked s) h4 h0 last
        ((symbolRead_answered h2).trans (congrArg some hc2))

/-- The padding of a text in memory, by the bytes at the addresses DEC_LEN reads. -/
theorem textPadding_bytesAt (s : State) (a : Addr) {n : Nat} (h : 2 ≤ n) :
    textPadding (s.bytesAt a n) =
      if s.memByte (elementAddr a (n - 1)) = padSymbol then
        if s.memByte (elementAddr a (n - 2)) = padSymbol then 2 else 1
      else 0 := by
  simp only [textPadding, bytesAt_length]
  rw [bytesAt_getElem? s a n (n - 1) (by omega), bytesAt_getElem? s a n (n - 2) (by omega)]
  simp only [Option.some.injEq]

/-- Settles O21: the lines of O20, with no read refused, against the cases of decoded_length. -/
theorem decLenComputesDecodedLength : Obligations.DecLenComputesDecodedLength := by
  intro s hd hr
  obtain ⟨t, run, -, -, invalid, empty, lines⟩ := decLenFollowsItsPseudocode s hd
  refine ⟨t, run, ?_⟩
  have len := bytesAt_length s s.lsrc s.llen.toNat
  by_cases h4 : s.llen.toNat % 4 = 0
  · suffices counted : Completed (s.llen.toNat / 4 * 3 - textPadding (s.bytesAt s.lsrc s.llen.toNat)) t by
      rw [decodedLength_of_groups (by rwa [len]), len]
      exact ⟨counted, counted.result_toNat (by have := s.llen.isLt; omega)⟩
    by_cases h0 : s.llen.toNat = 0
    · simpa [h0] using empty h0
    · obtain ⟨-, answered⟩ := lines h4 (by omega)
      obtain ⟨noPad, padded⟩ := answered (hr _ (by omega))
      rw [textPadding_bytesAt s s.lsrc (by omega)]
      split_ifs with hc hc2
      · exact ((padded hc).2 (hr _ (by omega))).2 hc2
      · exact ((padded hc).2 (hr _ (by omega))).1 hc2
      · exact noPad hc
  · rw [decodedLength_invalidLength (by rwa [len])]
    exact invalid h4

end Sys2Proof.Machine
end

section
/-! PROOFS. EncodeBytes (41_encode.md R130 to R138): the six-bit values of a group, the bytes they give back, the shape
of an encoding. -/

namespace Sys2Proof.Machine

open Sys2Proof

/-! ## The values of a group, bit by bit -/

/-- Bit i of a group is a bit of its last byte, of its middle one or of its first one (41_encode.md R133). -/
theorem getElem_groupBits (b0 b1 b2 : Byte) (i : Nat) (hi : i < 8 + 8 + 8) :
    (groupBits b0 b1 b2)[i] =
      if i < 8 then b2.getLsbD i else if i < 16 then b1.getLsbD (i - 8) else b0.getLsbD (i - 16) := by
  have middle : i - 8 < 8 ↔ i < 16 := by omega
  simp only [groupBits, ← BitVec.getLsbD_eq_getElem, BitVec.getLsbD_append, middle, Nat.sub_sub]

theorem sextet0_eq_slice (b0 b1 b2 : Byte) : sextet0 b0 = (groupBits b0 b1 b2).extractLsb' 18 6 := by
  ext i hi
  interval_cases i <;> simp [sextet0, getElem_groupBits]

theorem sextet1_eq_slice (b0 b1 b2 : Byte) : sextet1 b0 b1 = (groupBits b0 b1 b2).extractLsb' 12 6 := by
  ext i hi
  interval_cases i <;> simp [sextet1, getElem_groupBits]

theorem sextet2_eq_slice (b0 b1 b2 : Byte) : sextet2 b1 b2 = (groupBits b0 b1 b2).extractLsb' 6 6 := by
  ext i hi
  interval_cases i <;> simp [sextet2, getElem_groupBits]

theorem sextet3_eq_slice (b0 b1 b2 : Byte) : sextet3 b2 = (groupBits b0 b1 b2).extractLsb' 0 6 := by
  ext i hi
  interval_cases i <;> simp [sextet3, getElem_groupBits]

/-- Tail1 is a group whose second byte is 0 (41_encode.md R131, R133). -/
theorem tail1_eq (b0 : Byte) :
    tail1 b0 = [encodeTable (sextet0 b0), encodeTable (sextet1 b0 0#8), padSymbol, padSymbol] := by
  simp [tail1, sextet1]

/-- Tail2 is a group whose third byte is 0 (41_encode.md R132, R133). -/
theorem tail2_eq (b0 b1 : Byte) :
    tail2 b0 b1 = [encodeTable (sextet0 b0), encodeTable (sextet1 b0 b1), encodeTable (sextet2 b1 0#8), padSymbol] := by
  simp [tail2, sextet2]

/-- Settles O29, clause by clause; `groupBits` is the 24 bits the statement writes out. -/
theorem groupValuesAreSlicesOfTheGroup : Obligations.GroupValuesAreSlicesOfTheGroup :=
  fun b0 b1 b2 => ⟨sextet0_eq_slice b0 b1 b2, sextet1_eq_slice b0 b1 b2, sextet2_eq_slice b0 b1 b2,
    sextet3_eq_slice b0 b1 b2, tail1_eq b0, tail2_eq b0 b1⟩

/-! ## The bytes of a group from its values, bit by bit -/

theorem groupByte0_sextets (b0 b1 : Byte) : groupByte0 (sextet0 b0) (sextet1 b0 b1) = b0 := by
  ext i hi
  interval_cases i <;> simp [groupByte0, sextet0, sextet1]

theorem groupByte1_sextets (b0 b1 b2 : Byte) : groupByte1 (sextet1 b0 b1) (sextet2 b1 b2) = b1 := by
  ext i hi
  interval_cases i <;> simp [groupByte1, sextet1, sextet2]

theorem groupByte2_sextets (b1 b2 : Byte) : groupByte2 (sextet2 b1 b2) (sextet3 b2) = b2 := by
  ext i hi
  interval_cases i <;> simp [groupByte2, sextet2, sextet3]

@[simp] theorem decodeTable_padSymbol : decodeTable padSymbol = .pad := rfl

/-- The groups of an encoding give back what was encoded, a tail its one or two bytes. -/
theorem packGroups_encodeBytes (b : List Byte) : packGroups ((encodeBytes b).map decodeTable) = b := by
  induction b using encodeBytes.induct with
  | case1 b0 b1 b2 rest ih =>
    simp [encodeBytes, encodeGroup, packGroups, groupBytes, decodeTable_encodeTable, groupByte0_sextets,
      groupByte1_sextets, groupByte2_sextets, ih]
  | case2 b0 b1 =>
    simp [encodeBytes, tail2_eq, packGroups, groupBytes, decodeTable_encodeTable, groupByte0_sextets,
      groupByte1_sextets]
  | case3 b0 =>
    simp [encodeBytes, tail1_eq, packGroups, groupBytes, decodeTable_encodeTable, groupByte0_sextets]
  | case4 => rfl

/-- Settles O28: `packGroups_encodeBytes` is a left inverse. -/
theorem encodingIsInjective : Obligations.EncodingIsInjective := by
  intro b c h
  rw [← packGroups_encodeBytes b, h, packGroups_encodeBytes]

/-! ## The shape of an encoding -/

/-- How many `=` the encoding of n bytes ends with (41_encode.md R136). -/
def padCount (n : Nat) : Nat := (3 - n % 3) % 3

theorem padCount_add_three (n : Nat) : padCount (n + 3) = padCount n := by simp [padCount]

/-- Every group adds symbols of the EncodeTable in front; only a tail adds `=` (41_encode.md R137). -/
theorem encodeBytes_shape (b : List Byte) :
    ∃ values : List Sextet,
      encodeBytes b = values.map encodeTable ++ List.replicate (padCount b.length) padSymbol := by
  induction b using encodeBytes.induct with
  | case1 b0 b1 b2 rest ih =>
    obtain ⟨values, h⟩ := ih
    have pads : padCount (b0 :: b1 :: b2 :: rest).length = padCount rest.length := padCount_add_three rest.length
    exact ⟨sextet0 b0 :: sextet1 b0 b1 :: sextet2 b1 b2 :: sextet3 b2 :: values, by rw [encodeBytes, h, pads]; rfl⟩
  | case2 b0 b1 => exact ⟨[_, _, _], rfl⟩
  | case3 b0 => exact ⟨[_, _], rfl⟩
  | case4 => exact ⟨[], rfl⟩

/-- Settles O27: `encodeBytes_shape` with the length. -/
theorem encodingHasTheBase64Shape : Obligations.EncodingHasTheBase64Shape := by
  intro b
  obtain ⟨values, h⟩ := encodeBytes_shape b
  exact ⟨values, padCount b.length, h, rfl, encodeBytes_length b⟩

/-- The symbol before the padding is no `=`: the text is longer than its padding. -/
theorem encodeBytes_end {b : List Byte} (hb : b ≠ []) :
    ∃ front c, encodeBytes b = front ++ c :: List.replicate (padCount b.length) padSymbol ∧ c ≠ padSymbol := by
  obtain ⟨values, h⟩ := encodeBytes_shape b
  rcases List.eq_nil_or_concat values with rfl | ⟨front, v, rfl⟩
  · have len : encodedLength b.length = padCount b.length := by
      simpa [encodeBytes_length] using congrArg List.length h
    have pos := List.length_pos_of_ne_nil hb
    rw [encodedLength, padCount] at len
    omega
  · exact ⟨front.map encodeTable, encodeTable v, by simpa using h, encodeTable_ne_pad v⟩

/-- Settles O26: the end of an encoding with 0, 2 or 1 for `padCount`. -/
theorem encodingPadsByLength : Obligations.EncodingPadsByLength := by
  intro b
  rcases eq_or_ne b [] with rfl | hb
  · simp [encodeBytes]
  · obtain ⟨front, c, h, hc⟩ := encodeBytes_end hb
    refine ⟨fun h0 => ?_, fun h1 => ⟨front, c, ?_, hc⟩, fun h2 => ⟨front, c, ?_, hc⟩⟩
    · simpa [h, padCount, h0, padSymbol] using hc
    · simpa [padCount, h1, padSymbol] using h
    · simpa [padCount, h2, padSymbol] using h

end Sys2Proof.Machine
end

section
/-! PROOFS. The command ENCODE (41_encode.md R134, R135). -/

namespace Sys2Proof.Machine

open Sys2Proof

/-! ## The ends of ENCODE -/

section
variable {s : State}

theorem encodeCommand_answered (hr : ReadsAnswered s s.lsrc s.count)
    (hw : WritesAnswered s s.ldst (encodedLength s.count)) :
    encodeCommand s = complete (encodedLength s.count)
      { s with mem := writeBytes s.mem s.ldst (encodeBytes (s.bytesAt s.lsrc s.count)) } := by
  have written := engineWrites_answered (encodeBytes (s.bytesAt s.lsrc s.count)) s s.ldst fun j hj =>
    hw j (by rwa [encodeBytes_length, bytesAt_length] at hj)
  simp [encodeCommand, allRead_answered s s.lsrc s.count hr, written]

theorem encodeCommand_readRefused {j : Nat} (hj : j < s.count) (h : anyHas s.noRead (elementAddr s.lsrc j) = true) :
    encodeCommand s = failCommand .encode .busError s := by
  simp [encodeCommand, allRead_refused s s.lsrc s.count j hj h]

/-- Where the reads are answered the text is written, and one of its writes is refused. -/
theorem encodeCommand_writeRefused {j : Nat} (hj : j < encodedLength s.count)
    (h : anyHas s.noWrite (elementAddr s.ldst j) = true) : encodeCommand s = failCommand .encode .busError s := by
  rcases encodeCommand_cases s with e | ⟨b, hb, -⟩
  · exact e
  · have refused := engineWrites_refused (encodeBytes b) s s.ldst j
      (by rwa [encodeBytes_length, allRead_engineReads_length hb]) h
    simp [encodeCommand, hb, refused]

theorem exec_encode_defined (h : WindowsDefined .encode s) : exec .encode s = .next (encodeCommand (engineWorked s)) :=
  whenDefined_eq .encode encodeCommand s h

end

/-! ## ENCODE -/

/-- Settles O23: the answered end, run in `engineWorked s`, which has the memory, refusals and operands of `s`. -/
theorem encodeWritesTheText : Obligations.EncodeWritesTheText := by
  intro s hd hr hw
  have run := exec_encode_defined hd
  have ends := encodeCommand_answered (s := engineWorked s) hr hw
  have completed : Completed (encodedLength s.llen.toNat) (encodeCommand (engineWorked s)) :=
    ends ▸ completed_complete _ _
  have hlt := encodedLength_lt _ s.llen.isLt
  have len : (encodeBytes (s.bytesAt s.lsrc s.llen.toNat)).length = encodedLength s.llen.toNat := by
    rw [encodeBytes_length, bytesAt_length]
  refine ⟨_, run, completed, completed.result_toNat hlt, ?_, exec_sameOutside run, exec_sameBesidesResult run⟩
  rw [← len]
  exact bytesAt_writeBytes s _ s.ldst _ (len ▸ hlt.le) (ends ▸ rfl)

/-- Settles O24: either refusal gives the same end. -/
theorem encodeReportsBusErrors : Obligations.EncodeReportsBusErrors := by
  intro s j hd refused
  have run := exec_encode_defined hd
  have ends : encodeCommand (engineWorked s) = failCommand .encode .busError (engineWorked s) := by
    rcases refused with ⟨hj, h⟩ | ⟨hj, h⟩
    · exact encodeCommand_readRefused (s := engineWorked s) hj h
    · exact encodeCommand_writeRefused (s := engineWorked s) hj h
  exact ⟨_, run, ends ▸ failed_failCommand _ _ _, exec_sameOutside run, exec_sameBesidesResult run⟩

/-- Settles O25: the two ends of ENCODE. -/
theorem encodeRaisesNoDataError : Obligations.EncodeRaisesNoDataError := by
  intro s t h
  obtain ⟨-, rfl⟩ := whenDefined_next h
  rcases encodeCommand_cases (engineWorked s) with e | ⟨b, -, e⟩
  · exact .inr (e ▸ rfl)
  · exact .inl (e ▸ rfl)

end Sys2Proof.Machine
end

section
/-! PROOFS. DecodeText, index by index (42_decode.md R150 to R152, R157). -/

namespace Sys2Proof.Machine

open Sys2Proof

/-! ## The errors of the symbols read, by index -/

/-- SymbolError at index i of the symbols read, `none` among them for a refused read (42_decode.md R152, R159). -/
def readError (groups : Nat) (cs : List (Option SymbolClass)) (i : Nat) : Option ErrorKind :=
  cs[i]?.join.bind (symbolError groups i cs[i - 1]?.join)

theorem symbolErrors_cons (groups i : Nat) (before x : Option SymbolClass) (cs : List (Option SymbolClass)) :
    symbolErrors groups i before (x :: cs) =
      (x.bind (symbolError groups i before)).toList ++ symbolErrors groups (i + 1) x cs := by
  cases x with
  | none => rfl
  | some c =>
    rw [symbolErrors, Option.bind_some]
    cases symbolError groups i before c <;> rfl

theorem symbolErrors_drop (groups : Nat) (cs : List (Option SymbolClass)) {i n : Nat} (h : i + n = cs.length) :
    symbolErrors groups i cs[i - 1]?.join (cs.drop i) = (List.range' i n).filterMap (readError groups cs) := by
  induction n generalizing i with
  | zero =>
    rw [List.drop_of_length_le (by omega)]
    rfl
  | succ n ih =>
    have hi : i < cs.length := by omega
    have here : cs[i]?.join = cs[i] := by simp [hi]
    have rest := ih (i := i + 1) (by omega)
    rw [Nat.add_sub_cancel, here] at rest
    rw [List.drop_eq_getElem_cons hi, symbolErrors_cons, rest, List.range'_succ, List.filterMap_cons, readError, here]
    cases cs[i].bind (symbolError groups i cs[i - 1]?.join) <;> rfl

/-- The errors found are those of the indices, in increasing order (42_decode.md R150). -/
theorem symbolErrors_eq_filterMap (groups : Nat) (cs : List (Option SymbolClass)) :
    symbolErrors groups 0 none cs = (List.range cs.length).filterMap (readError groups cs) := by
  rw [List.range_eq_range', ← symbolErrors_drop groups cs (Nat.zero_add _), List.drop_zero]
  exact (symbolErrors_before groups 0 _ cs (by decide)).symm

/-- The first value of a function on the numbers below n is the one at the lowest that has any. -/
theorem findSome?_range_eq_some_iff {α : Type} (f : Nat → Option α) (n : Nat) (a : α) :
    (List.range n).findSome? f = some a ↔ ∃ i, i < n ∧ f i = some a ∧ ∀ j, j < i → f j = none := by
  induction n with
  | zero => simp
  | succ n ih =>
    rw [List.range_succ, List.findSome?_append, Option.or_eq_some_iff, ih, List.findSome?_eq_none_iff]
    simp only [List.mem_range, List.findSome?_singleton]
    constructor
    · rintro (⟨i, hi, h⟩ | ⟨low, h⟩)
      · exact ⟨i, by omega, h⟩
      · exact ⟨n, by omega, h, low⟩
    · rintro ⟨i, hi, h, low⟩
      rcases Nat.lt_succ_iff_lt_or_eq.1 hi with hi | rfl
      · exact .inl ⟨i, hi, h, low⟩
      · exact .inr ⟨low, h⟩

/-! ## The errors of a text -/

/-- Lines (a) to (d) as R152 writes them are SymbolError of the class at the index and the class before it. -/
theorem errorAt_eq_symbolError (t : List Byte) (i : Nat) :
    errorAt t i =
      t[i]?.bind fun b => symbolError (t.length / 4) i (t[i - 1]?.map decodeTable) (decodeTable b) := by
  unfold errorAt
  cases t[i]? with
  | none => rfl
  | some b => cases h : decodeTable b <;> simp [symbolError, h]

theorem readError_of_text (t : List Byte) (i : Nat) :
    readError (t.length / 4) (t.map fun b => some (decodeTable b)) i = errorAt t i := by
  have class_at : ∀ j : Nat, (t.map fun b => some (decodeTable b))[j]?.join = t[j]?.map decodeTable := fun j => by
    rw [List.getElem?_map]
    cases t[j]? <;> rfl
  rw [readError, class_at, class_at, errorAt_eq_symbolError, Option.bind_map]
  rfl

/-- The errors of a text are those of R152's lines at its indices. -/
theorem symbolErrors_of_text (t : List Byte) :
    symbolErrors (t.length / 4) 0 none (t.map fun b => some (decodeTable b)) =
      (List.range t.length).filterMap (errorAt t) := by
  rw [symbolErrors_eq_filterMap, List.length_map, funext (readError_of_text t)]

theorem decodeText_invalidLength {t : List Byte} (h : t.length % 4 ≠ 0) : decodeText t = .err .invalidLength :=
  if_pos h

theorem decodeText_ok_length_mod {t bytes : List Byte} (h : decodeText t = .ok bytes) : t.length % 4 = 0 := by
  by_contra h4
  simp [decodeText_invalidLength h4] at h

theorem decodeText_err_iff_lowest {t : List Byte} (h : t.length % 4 = 0) (kind : ErrorKind) :
    decodeText t = .err kind ↔
      ∃ i, i < t.length ∧ errorAt t i = some kind ∧ ∀ j, j < i → errorAt t j = none := by
  rw [decodeText_err_iff t h, symbolErrors_of_text, List.head?_filterMap, findSome?_range_eq_some_iff]

theorem decodeText_ok_iff_noError {t : List Byte} (h : t.length % 4 = 0) (bytes : List Byte) :
    decodeText t = .ok bytes ↔
      (∀ i, i < t.length → errorAt t i = none) ∧ packGroups (t.map decodeTable) = bytes := by
  rw [decodeText_ok_iff t bytes h, symbolErrors_of_text, List.filterMap_eq_nil_iff]
  simp only [List.mem_range]

/-- Settles O36: the two ends of DecodeText, by the errors at the indices. -/
theorem lowestOffendingIndexDecides : Obligations.LowestOffendingIndexDecides := fun _ =>
  ⟨decodeText_invalidLength, fun h => ⟨decodeText_err_iff_lowest h, fun clean =>
    ⟨_, (decodeText_ok_iff_noError h _).2 ⟨clean, rfl⟩⟩⟩⟩

/-! ## Padding before the final group -/

/-- Lines (b) and (c): `=` before the final group is InvalidPadding at every position (42_decode.md R157). -/
theorem errorAt_early_pad {t : List Byte} {i : Nat} (hp : t[i]? = some padSymbol) (hi : i / 4 < t.length / 4 - 1) :
    errorAt t i = some .invalidPadding := by
  rw [errorAt_eq_symbolError, hp, Option.bind_some, decodeTable_padSymbol, symbolError, if_pos (Nat.ne_of_lt hi),
    ite_self]

/-- Settles O39: the early `=` has an error, which is the text's where no lower index has one. -/
theorem paddingBeforeTheFinalGroupFails : Obligations.PaddingBeforeTheFinalGroupFails := by
  intro t i h4 hp hi
  have error := errorAt_early_pad hp hi
  obtain ⟨hlt, -⟩ := List.getElem?_eq_some_iff.1 hp
  refine ⟨?_, fun low => (decodeText_err_iff_lowest h4 _).2 ⟨i, hlt, error, low⟩⟩
  cases h : decodeText t with
  | err kind => exact ⟨kind, rfl⟩
  | ok bytes =>
    obtain ⟨clean, -⟩ := (decodeText_ok_iff_noError h4 bytes).1 h
    simp [clean i hlt] at error

end Sys2Proof.Machine
end

section
/-! PROOFS. DecodeText, group by group (42_decode.md R153 to R156), its round trip (R160) and its count (R161). -/

namespace Sys2Proof.Machine

open Sys2Proof

/-! ## Errors group by group -/

/-- The errors of a group and of the symbols after it, counted from a group's first symbol. -/
theorem symbolErrors_group_append (groups i : Nat) (c0 c1 c2 c3 : Option SymbolClass) (cs : List (Option SymbolClass))
    (hi : i % 4 = 0) :
    symbolErrors groups i none (c0 :: c1 :: c2 :: c3 :: cs) =
      symbolErrors groups i none [c0, c1, c2, c3] ++ symbolErrors groups (i + 4) none cs :=
  symbolErrors_append groups i none [c0, c1, c2, c3] cs (by simp only [List.length_cons, List.length_nil]; omega)

/-- R152 (a) to (d) find nothing in four values. -/
theorem symbolErrors_values (groups i : Nat) (v0 v1 v2 v3 : Sextet) (hi : i % 4 = 0) :
    symbolErrors groups i none [some (.val v0), some (.val v1), some (.val v2), some (.val v3)] = [] :=
  (symbolErrors_group groups i _ _ _ _ hi).2 ⟨⟨v0, v1, rfl, rfl⟩, .inl ⟨v2, v3, rfl, rfl⟩⟩

/-! ## Decoding an encoding -/

/-- No symbol of an encoding has an error: its full groups are values, its `=` stand at the end of its last group. -/
theorem symbolErrors_encodeBytes (b : List Byte) {groups i : Nat} (hi : i % 4 = 0)
    (hg : i + encodedLength b.length = 4 * groups) :
    symbolErrors groups i none ((encodeBytes b).map fun c => some (decodeTable c)) = [] := by
  induction b using encodeBytes.induct generalizing i with
  | case1 b0 b1 b2 rest ih =>
    have rest_clean := ih (i := i + 4) (by omega) (by
      simp only [encodedLength, List.length_cons] at hg ⊢
      omega)
    simp only [encodeBytes, encodeGroup, List.cons_append, List.nil_append, List.map_cons, decodeTable_encodeTable]
    rw [symbolErrors_group_append _ _ _ _ _ _ _ hi, symbolErrors_values _ _ _ _ _ _ hi, rest_clean, List.nil_append]
  | case2 b0 b1 =>
    have last_group : i + 4 = 4 * groups := by simpa [encodedLength] using hg
    have final : i / 4 = groups - 1 := by omega
    exact (symbolErrors_group groups i _ _ _ _ hi).2
      ⟨⟨_, _, decodeTable_encodeTable _, decodeTable_encodeTable _⟩,
        .inr ⟨final, .inl ⟨_, decodeTable_encodeTable _, rfl⟩⟩⟩
  | case3 b0 =>
    have last_group : i + 4 = 4 * groups := by simpa [encodedLength] using hg
    have final : i / 4 = groups - 1 := by omega
    exact (symbolErrors_group groups i _ _ _ _ hi).2
      ⟨⟨_, _, decodeTable_encodeTable _, decodeTable_encodeTable _⟩,
        .inr ⟨final, .inr ⟨rfl, rfl⟩⟩⟩
  | case4 => rfl

/-- R160: the encoding has no error, and its groups give the bytes back. -/
theorem decodeText_encodeBytes (b : List Byte) : decodeText (encodeBytes b) = .ok b := by
  have hlen := encodeBytes_length b
  have h4 : (encodeBytes b).length % 4 = 0 := hlen ▸ Nat.mul_mod_right 4 _
  exact (decodeText_ok_iff _ b h4).2 ⟨symbolErrors_encodeBytes b rfl (by omega), packGroups_encodeBytes b⟩

/-- Settles O40; the bound on the length is not needed. -/
theorem decodeOfEncodeIsTheBytes : Obligations.DecodeOfEncodeIsTheBytes := fun b _ => decodeText_encodeBytes b

/-! ## The bytes of a group, bit by bit -/

/-- G24 of a group of four values (42_decode.md R153). -/
def sextetGroup (v0 v1 v2 v3 : Sextet) : BitVec (6 + 6 + 6 + 6) := v0 ++ v1 ++ v2 ++ v3

/-- Bit i of G24 is a bit of one of the four values, the last one lowest. -/
theorem getElem_sextetGroup (v0 v1 v2 v3 : Sextet) (i : Nat) (hi : i < 6 + 6 + 6 + 6) :
    (sextetGroup v0 v1 v2 v3)[i] =
      if i < 6 then v3.getLsbD i
      else if i < 12 then v2.getLsbD (i - 6)
      else if i < 18 then v1.getLsbD (i - 12)
      else v0.getLsbD (i - 18) := by
  have second : i - 6 < 6 ↔ i < 12 := by omega
  have third : i - 12 < 6 ↔ i < 18 := by omega
  simp only [sextetGroup, ← BitVec.getLsbD_eq_getElem, BitVec.getLsbD_append, second, third, Nat.sub_sub]

theorem groupByte0_eq_slice (v0 v1 v2 v3 : Sextet) :
    groupByte0 v0 v1 = (sextetGroup v0 v1 v2 v3).extractLsb' 16 8 := by
  ext i hi
  interval_cases i <;> simp [groupByte0, getElem_sextetGroup]

theorem groupByte1_eq_slice (v0 v1 v2 v3 : Sextet) :
    groupByte1 v1 v2 = (sextetGroup v0 v1 v2 v3).extractLsb' 8 8 := by
  ext i hi
  interval_cases i <;> simp [groupByte1, getElem_sextetGroup]

theorem groupByte2_eq_slice (v0 v1 v2 v3 : Sextet) :
    groupByte2 v2 v3 = (sextetGroup v0 v1 v2 v3).extractLsb' 0 8 := by
  ext i hi
  interval_cases i <;> simp [groupByte2, getElem_sextetGroup]

/-- Settles O37: each byte of each form is its slice; `sextetGroup` is the 24 bits the statement writes out. -/
theorem groupBytesAreSlicesOfTheGroup : Obligations.GroupBytesAreSlicesOfTheGroup := by
  intro v0 v1 v2 v3
  have first := groupByte0_eq_slice v0 v1 v2 v3
  have second := groupByte1_eq_slice v0 v1 v2 v3
  have third := groupByte2_eq_slice v0 v1 v2 v3
  simp only [groupBytes, first, second, third, sextetGroup, and_self]

/-! ## The discarded bits -/

/-- Two last groups with the same errors and the same bytes end a text alike. -/
theorem decodeText_append_congr (front : List Byte) {g h : List Byte} (hg : g.length = 4) (hh : h.length = 4)
    (errors : ∀ groups i, symbolErrors groups i none (g.map fun b => some (decodeTable b)) =
      symbolErrors groups i none (h.map fun b => some (decodeTable b)))
    (bytes : packGroups (g.map decodeTable) = packGroups (h.map decodeTable)) :
    decodeText (front ++ g) = decodeText (front ++ h) := by
  simp only [decodeText, List.length_append, List.map_append, hg, hh]
  by_cases h4 : front.length % 4 = 0
  · have cut : (0 + (front.map fun b => some (decodeTable b)).length) % 4 ≠ 3 := by simp [h4]
    have whole : (front.map decodeTable).length % 4 = 0 := by rwa [List.length_map]
    rw [symbolErrors_append _ _ _ _ _ cut, symbolErrors_append _ _ _ _ _ cut, errors, packGroups_append _ _ whole,
      packGroups_append _ _ whole, bytes]
  · have noGroups : (front.length + 4) % 4 ≠ 0 := by omega
    rw [if_pos noGroups, if_pos noGroups]

/-- B0 takes the high 2 bits of v1 (42_decode.md R153). -/
theorem groupByte0_congr (v0 : Sextet) {v1 u1 : Sextet} (h : v1 >>> 4 = u1 >>> 4) :
    groupByte0 v0 v1 = groupByte0 v0 u1 := by
  rw [groupByte0, groupByte0, ← BitVec.setWidth_ushiftRight (by decide), ← BitVec.setWidth_ushiftRight (by decide), h]

/-- B1 takes the high 4 bits of v2 (42_decode.md R153). -/
theorem groupByte1_congr (v1 : Sextet) {v2 u2 : Sextet} (h : v2 >>> 2 = u2 >>> 2) :
    groupByte1 v1 v2 = groupByte1 v1 u2 := by
  rw [groupByte1, groupByte1, ← BitVec.setWidth_ushiftRight (by decide), ← BitVec.setWidth_ushiftRight (by decide), h]

/-- Settles O38: values have the same errors whatever they are, and no byte takes the discarded bits. -/
theorem discardedBitsAreNotChecked : Obligations.DiscardedBitsAreNotChecked := by
  intro front v0 v1 v2 u1 u2
  refine ⟨fun h => ?_, fun h => ?_⟩
  · refine decodeText_append_congr front rfl rfl (fun groups i => ?_) ?_
    · simp only [List.map_cons, decodeTable_encodeTable]
      rfl
    · simp only [List.map_cons, List.map_nil, decodeTable_encodeTable, (decodeTable_pad_iff _).2, packGroups,
        groupBytes, groupByte0_congr v0 h]
  · refine decodeText_append_congr front rfl rfl (fun groups i => ?_) ?_
    · simp only [List.map_cons, decodeTable_encodeTable]
      rfl
    · simp only [List.map_cons, List.map_nil, decodeTable_encodeTable, (decodeTable_pad_iff _).2, packGroups,
        groupBytes, groupByte1_congr v1 h]

/-! ## The count -/

/-- A group without an error has as many bytes as decoded_length counts for it (42_decode.md R161). -/
theorem decodedLength_group {groups i : Nat} {b0 b1 b2 b3 : Byte} (hi : i % 4 = 0)
    (clean : symbolErrors groups i none
      [some (decodeTable b0), some (decodeTable b1), some (decodeTable b2), some (decodeTable b3)] = []) :
    decodedLength [b0, b1, b2, b3] =
      .ok (groupBytes (decodeTable b0) (decodeTable b1) (decodeTable b2) (decodeTable b3)).length := by
  rw [decodedLength_of_groups (t := [b0, b1, b2, b3]) (Nat.mod_self 4)]
  obtain ⟨⟨v0, v1, h0, h1⟩, ⟨v2, v3, h2, h3⟩ | ⟨-, ⟨v2, h2, h3⟩ | ⟨h2, h3⟩⟩⟩ :=
    (symbolErrors_group groups i _ _ _ _ hi).1 clean
  · have last : b3 ≠ padSymbol := eq_encodeTable_of_decodeTable h3 ▸ encodeTable_ne_pad v3
    simp [textPadding, groupBytes, h0, h1, h2, h3, last]
  · have third : b2 ≠ padSymbol := eq_encodeTable_of_decodeTable h2 ▸ encodeTable_ne_pad v2
    have last : b3 = padSymbol := (decodeTable_pad_iff b3).1 h3
    simp [textPadding, groupBytes, h0, h1, h2, third, last]
  · have third : b2 = padSymbol := (decodeTable_pad_iff b2).1 h2
    have last : b3 = padSymbol := (decodeTable_pad_iff b3).1 h3
    simp [textPadding, groupBytes, h0, h1, third, last]

/-- Before the final group a group without an error has three bytes (42_decode.md R157). -/
theorem groupBytes_length_of_notFinal {groups i : Nat} {c0 c1 c2 c3 : SymbolClass} (hi : i % 4 = 0)
    (clean : symbolErrors groups i none [some c0, some c1, some c2, some c3] = []) (hf : i / 4 ≠ groups - 1) :
    (groupBytes c0 c1 c2 c3).length = 3 := by
  obtain ⟨⟨v0, v1, rfl, rfl⟩, ⟨v2, v3, rfl, rfl⟩ | ⟨final, -⟩⟩ :=
    (symbolErrors_group groups i _ _ _ _ hi).1 clean
  · rfl
  · exact absurd final hf

/-- R161 from a group's first symbol to the end of the text, group by group. -/
theorem decodedLength_of_clean {groups i : Nat} (t : List Byte) (hi : i % 4 = 0) (hg : i + t.length = 4 * groups)
    (clean : symbolErrors groups i none (t.map fun b => some (decodeTable b)) = []) :
    decodedLength t = .ok (packGroups (t.map decodeTable)).length := by
  match t with
  | [] => rfl
  | [_] | [_, _] | [_, _, _] =>
    simp only [List.length_cons, List.length_nil] at hg
    omega
  | b0 :: b1 :: b2 :: b3 :: rest =>
    simp only [List.map_cons] at clean
    rw [symbolErrors_group_append _ _ _ _ _ _ _ hi, List.append_eq_nil_iff] at clean
    obtain ⟨group_clean, rest_clean⟩ := clean
    simp only [List.length_cons] at hg
    simp only [List.map_cons, packGroups, List.length_append]
    by_cases hr : rest = []
    · subst hr
      exact decodedLength_group hi group_clean
    · have more := List.length_pos_of_ne_nil hr
      have ih := decodedLength_of_clean rest (i := i + 4) (by omega) (by omega) rest_clean
      rw [groupBytes_length_of_notFinal hi group_clean (by omega), Nat.add_comm]
      exact decodedLength_group_append (g := [b0, b1, b2, b3]) rfl hr ih

/-- Settles O41: `decodedLength_of_clean` from the first symbol. -/
theorem decodedCountIsDecodedLength : Obligations.DecodedCountIsDecodedLength := by
  intro t bytes h
  have h4 := decodeText_ok_length_mod h
  obtain ⟨clean, rfl⟩ := (decodeText_ok_iff t bytes h4).1 h
  exact decodedLength_of_clean t rfl (by omega) clean

end Sys2Proof.Machine
end

section
/-! PROOFS. The command DECODE (42_decode.md R158, R159, R162), and ENCODE followed by DECODE (R160). -/

namespace Sys2Proof.Machine

open Sys2Proof

/-! ## The ends of DECODE -/

/-- Reads that all succeed give the bytes memory holds. -/
theorem eq_bytesAt_of_allRead {s : State} {a : Addr} {n : Nat} {bs : List Byte}
    (h : allRead (engineReads s a n) = some bs) : bs = s.bytesAt a n := by
  have answered : ReadsAnswered s a n := fun j hj => by
    by_contra refused
    rw [Bool.not_eq_false] at refused
    simp [allRead_refused s a n j hj refused] at h
  rw [allRead_answered s a n answered, Option.some.injEq] at h
  exact h.symm

section
variable {s : State}

theorem exec_decode_defined (h : WindowsDefined .decode s) : exec .decode s = .next (decodeCommand (engineWorked s)) :=
  whenDefined_eq .decode decodeCommand s h

theorem decodeCommand_invalidLength (h : s.count % 4 ≠ 0) : decodeCommand s = failCommand .decode .invalidLength s :=
  if_pos h

theorem decodeCommand_textError {kind : ErrorKind} (h4 : s.count % 4 = 0) (hr : ReadsAnswered s s.lsrc s.count)
    (h : decodeText (s.bytesAt s.lsrc s.count) = .err kind) : decodeCommand s = failCommand .decode kind s := by
  simp [decodeCommand, h4, allRead_answered s s.lsrc s.count hr, h]

section
variable {bytes : List Byte}

/-- Only whole groups decode (42_decode.md R150). -/
theorem count_mod_of_decodes (h : decodeText (s.bytesAt s.lsrc s.count) = .ok bytes) : s.count % 4 = 0 :=
  bytesAt_length s s.lsrc s.count ▸ decodeText_ok_length_mod h

theorem decoded_length_lt (h : decodeText (s.bytesAt s.lsrc s.count) = .ok bytes) : bytes.length < 2 ^ 32 := by
  have hlen := decodeText_ok_length_le h
  have hcount : s.count < 2 ^ 30 := s.llen.isLt
  rw [bytesAt_length] at hlen
  omega

theorem decodeCommand_answered (hr : ReadsAnswered s s.lsrc s.count)
    (h : decodeText (s.bytesAt s.lsrc s.count) = .ok bytes) (hw : WritesAnswered s s.ldst bytes.length) :
    decodeCommand s = complete bytes.length { s with mem := writeBytes s.mem s.ldst bytes } := by
  simp [decodeCommand, count_mod_of_decodes h, allRead_answered s s.lsrc s.count hr, h,
    engineWrites_answered bytes s s.ldst hw]

theorem decodeCommand_writeRefused {j : Nat} (hr : ReadsAnswered s s.lsrc s.count)
    (h : decodeText (s.bytesAt s.lsrc s.count) = .ok bytes) (hj : j < bytes.length)
    (hw : anyHas s.noWrite (elementAddr s.ldst j) = true) : decodeCommand s = failCommand .decode .busError s := by
  simp [decodeCommand, count_mod_of_decodes h, allRead_answered s s.lsrc s.count hr, h,
    engineWrites_refused bytes s s.ldst j hj hw]

end

end

/-! ## DECODE with no refused read -/

/-- Settles O32: the answered end, run in `engineWorked s`, which has the memory, refusals and operands of `s`. -/
theorem decodeWritesTheBytes : Obligations.DecodeWritesTheBytes := by
  intro s bytes hd hr hok hw
  have run := exec_decode_defined hd
  have ends := decodeCommand_answered (s := engineWorked s) hr hok hw
  have completed : Completed bytes.length (decodeCommand (engineWorked s)) := ends ▸ completed_complete _ _
  have written : (decodeCommand (engineWorked s)).mem = writeBytes s.mem s.ldst bytes := ends ▸ rfl
  have hlt := decoded_length_lt hok
  exact ⟨_, run, completed, completed.result_toNat hlt, bytesAt_writeBytes s _ s.ldst bytes hlt.le written,
    sameOutside_writeBytes (le_refl _) hlt.le written, exec_sameBesidesResult run⟩

/-- Settles O33: a length of no whole groups leaves DW empty, so no byte changes; otherwise the text's own error. -/
theorem decodeReportsTheTextsError : Obligations.DecodeReportsTheTextsError := by
  intro s hd
  have run := exec_decode_defined hd
  refine ⟨fun h4 => ?_, fun kind h4 hr herr => ?_⟩
  · have ends := decodeCommand_invalidLength (s := engineWorked s) h4
    have empty : dstWindow .decode s = ⟨s.ldst, 0⟩ := if_neg h4
    exact ⟨_, run, ends ▸ failed_failCommand _ _ _, exec_sameMemory run (empty ▸ rfl), exec_sameBesidesResult run⟩
  · have ends := decodeCommand_textError (s := engineWorked s) h4 hr herr
    exact ⟨_, run, ends ▸ failed_failCommand _ _ _, exec_sameOutside run, exec_sameBesidesResult run⟩

/-- Settles O35: the refused write ends the command before any count. -/
theorem decodeReportsRefusedWrites : Obligations.DecodeReportsRefusedWrites := by
  intro s bytes j hd hr hok hj hw
  have run := exec_decode_defined hd
  have ends := decodeCommand_writeRefused (s := engineWorked s) hr hok hj hw
  exact ⟨_, run, ends ▸ failed_failCommand _ _ _, exec_sameOutside run, exec_sameBesidesResult run⟩

/-! ## DECODE with a refused read -/

/-- The error reported is BusError or one of those found (42_decode.md R159; log entry 6). -/
theorem pickError_cases (choice : Nat) (kinds : List ErrorKind) :
    pickError choice kinds = .busError ∨ pickError choice kinds ∈ kinds := by
  cases kinds with
  | nil => exact .inl rfl
  | cons k ks =>
    rw [pickError]
    split
    · exact .inr (List.mem_of_getElem? ‹_›)
    · exact .inl rfl

/-- With a refused read the error is BusError or stands at an index of the symbols read (42_decode.md R159). -/
theorem decodeCommand_readRefused {s : State} {j : Nat} (h4 : s.count % 4 = 0) (hj : j < s.count)
    (h : anyHas s.noRead (elementAddr s.lsrc j) = true) :
    ∃ kind u, decodeCommand s = failCommand .decode kind u ∧
      (kind = .busError ∨ ∃ i, i < s.count ∧
        readError (s.count / 4) ((engineReads s s.lsrc s.count).map fun r => r.map decodeTable) i = some kind) := by
  have ends : decodeCommand s = refusedReadFailure (engineReads s s.lsrc s.count) s := by
    simp [decodeCommand, h4, allRead_refused s s.lsrc s.count j hj h]
  refine ⟨_, _, ends, (pickError_cases _ _).imp_right fun found => ?_⟩
  rw [symbolErrors_eq_filterMap] at found
  obtain ⟨i, hi, herr⟩ := List.mem_filterMap.1 found
  exact ⟨i, by simpa [engineReads_length] using hi, by rwa [symbolErrors_eq_filterMap]⟩

/-- An error found without knowing the symbol before is one whatever that symbol is. -/
theorem symbolError_of_unknown {groups i : Nat} {c : SymbolClass} {kind : ErrorKind}
    (h : symbolError groups i none c = some kind) (before : Option SymbolClass) :
    symbolError groups i before c = some kind := by
  cases c with
  | val v => simp [symbolError] at h
  | pad | invalid => exact h

/-- The class of the symbol at index i where it was read. -/
theorem engineReads_class (s : State) (a : Addr) {n i : Nat} (hi : i < n) :
    ((engineReads s a n).map fun r => r.map decodeTable)[i]?.join =
      if anyHas s.noRead (elementAddr a i) then none else some (decodeTable (s.memByte (elementAddr a i))) := by
  rw [List.getElem?_map, engineReads_getElem? s n a i hi]
  change (engineRead s (elementAddr a i)).map decodeTable = _
  by_cases h : anyHas s.noRead (elementAddr a i) = true <;> simp [engineRead, h]

/-- An error found at an index is one of a symbol that was read, and R152's there; where the symbol before was not read
it is no value's (log entry 6). -/
theorem readError_engineReads {s : State} {a : Addr} {n i : Nat} {kind : ErrorKind} (hi : i < n)
    (h : readError (n / 4) ((engineReads s a n).map fun r => r.map decodeTable) i = some kind) :
    anyHas s.noRead (elementAddr a i) = false ∧ errorAt (s.bytesAt a n) i = some kind ∧
      (anyHas s.noRead (elementAddr a (i - 1)) = true → ∀ v, decodeTable (s.memByte (elementAddr a i)) ≠ .val v) := by
  have before : i - 1 < n := by omega
  rw [readError, engineReads_class s a hi, engineReads_class s a before] at h
  rw [errorAt_eq_symbolError, bytesAt_length, bytesAt_getElem? s a n i hi, bytesAt_getElem? s a n (i - 1) before]
  cases hri : anyHas s.noRead (elementAddr a i) with
  | true => simp [hri] at h
  | false =>
    cases hrb : anyHas s.noRead (elementAddr a (i - 1)) with
    | true =>
      simp only [hri, hrb, Bool.false_eq_true, if_true, if_false, Option.bind_some] at h
      exact ⟨rfl, symbolError_of_unknown h _, fun _ v hv => by simp [hv, symbolError] at h⟩
    | false =>
      simp only [hri, hrb, Bool.false_eq_true, if_false, Option.bind_some] at h
      exact ⟨rfl, h, fun hb => by cases hb⟩

/-- Settles O34: the error reported stands at an index whose symbol was read, and is R152's there. -/
theorem decodeWithARefusedReadReportsAnAdmittedError :
    Obligations.DecodeWithARefusedReadReportsAnAdmittedError := by
  intro s j hd h4 hj hrefused
  have run := exec_decode_defined hd
  obtain ⟨kind, u, ends, hkind⟩ := decodeCommand_readRefused (s := engineWorked s) h4 hj hrefused
  refine ⟨_, kind, run, ends ▸ failed_failCommand _ _ _, exec_sameOutside run, exec_sameBesidesResult run,
    hkind.imp_right ?_⟩
  rintro ⟨i, hi, found⟩
  obtain ⟨read, error, value⟩ := readError_engineReads hi found
  exact ⟨i, hi, read, error, fun _ => value⟩

/-! ## All or nothing -/

/-- No kind has the code of success (60_exceptions.md R190). -/
theorem ErrorKind.code_ne_zero (kind : ErrorKind) : kind.code ≠ 0#4 := by cases kind <;> decide

/-- Settles O42: the two ends of DECODE. -/
theorem decodeIsAllOrNothing : Obligations.DecodeIsAllOrNothing := by
  intro s t h
  obtain ⟨-, rfl⟩ := whenDefined_next h
  rcases decodeCommand_cases (engineWorked s) with ⟨kind, u, ends, -⟩ | ⟨text, bytes, hread, hok, -, ends⟩
  · exact .inr (ends ▸ ⟨kind.code_ne_zero, rfl⟩)
  · have htext : text = s.bytesAt s.lsrc s.llen.toNat := eq_bytesAt_of_allRead (s := engineWorked s) hread
    rw [htext] at hok
    have hlt := decoded_length_lt hok
    have completed : Completed bytes.length (decodeCommand (engineWorked s)) := ends ▸ completed_complete _ _
    exact .inl ⟨ends ▸ rfl, bytes, hok, completed.result_toNat hlt,
      bytesAt_writeBytes s _ s.ldst bytes hlt.le (ends ▸ rfl)⟩

/-! ## ENCODE, then DECODE -/

/-- The state with these latched operands (10_state.md R39). -/
def withOperands (src : Addr) (len : Length) (dst : Addr) (s : State) : State :=
  { s with lsrc := src, llen := len, ldst := dst }

/-- With the same operands, BASE and devices make a command UNDEFINED or not. -/
theorem undefinedCommand_withOperands_congr (i : Instr) (src : Addr) (len : Length) (dst : Addr) {s t : State}
    (hbase : t.base = s.base) (hdev : t.devices = s.devices) :
    undefinedCommand i (withOperands src len dst t) = undefinedCommand i (withOperands src len dst s) :=
  calc
    undefinedCommand i (withOperands src len dst t)
    _ = undefinedCommand i (withOperands src len dst { t with base := s.base, devices := s.devices }) := by
      rw [← hbase, ← hdev]
    _ = undefinedCommand i (withOperands src len dst s) := by cases i <;> rfl

/-- Settles O58: O23 leaves the text at LDST and the platform as it was, and O32 applies to that text by O40. -/
theorem encodeThenDecodeRestoresTheBytes : Obligations.EncodeThenDecodeRestoresTheBytes := by
  intro s back hfit hdEnc hdDec hrSrc hwText hrText hwBack
  obtain ⟨t, hEnc, -, hcount, htext, -, hsame⟩ := encodeWritesTheText s hdEnc hrSrc hwText
  obtain ⟨-, -, -, -, -, -, -, -, -, hbase, hdev, hnoRead, hnoWrite, -⟩ := hsame
  have hlen : (BitVec.ofNat 30 (encodedLength s.llen.toNat)).toNat = encodedLength s.llen.toNat := by
    rw [BitVec.toNat_ofNat, Nat.mod_eq_of_lt hfit]
  have source_len := bytesAt_length s s.lsrc s.llen.toNat
  have defined : WindowsDefined .decode
      (withOperands s.ldst (BitVec.ofNat 30 (encodedLength s.llen.toNat)) back t) :=
    (undefinedCommand_withOperands_congr _ _ _ _ hbase hdev).trans hdDec
  have decodes : decodeText (t.bytesAt s.ldst (BitVec.ofNat 30 (encodedLength s.llen.toNat)).toNat) =
      .ok (s.bytesAt s.lsrc s.llen.toNat) := by
    rw [hlen, htext, decodeText_encodeBytes]
  obtain ⟨u, hDec, completed, hback, hbytes, -, -⟩ :=
    decodeWritesTheBytes _ (s.bytesAt s.lsrc s.llen.toNat) defined (fun j hj => hnoRead ▸ hrText j (hlen ▸ hj)) decodes
      (fun j hj => hnoWrite ▸ hwBack j (source_len ▸ hj))
  rw [source_len] at completed hback hbytes
  exact ⟨t, u, hEnc, hcount, hDec, completed, hback, hbytes⟩

end Sys2Proof.Machine
end

section
/-! PROOFS. The block-parallel datapath gives the answers of the scalar rules (43_block_datapath.md R180 to R185). -/

namespace Sys2Proof.Machine

open Sys2Proof

/-! ## Encode -/

/-- R182: the offsets of the first three ranges are EncodeTable's, the third one as a negative number; 62 and 63 are
ranges of one value each. -/
theorem rangeTranslate_eq_encodeTable (v : Sextet) : rangeTranslate v = encodeTable v := by
  unfold rangeTranslate encodeTable
  split_ifs with upper lower digit plus
  · rfl
  · rfl
  · rw [BitVec.sub_eq_add_neg]
    rfl
  · rw [plus]
    rfl
  · have slash : v = 63#6 := by bv_omega
    rw [slash]
    rfl

/-- Settles O31. -/
theorem rangeTranslateIsTheEncodeTable : Obligations.RangeTranslateIsTheEncodeTable := rangeTranslate_eq_encodeTable

/-- Whole groups may go through the block step, and what follows them through the scalar rules. -/
theorem encodeBytes_append (b rest : List Byte) (h : b.length % 3 = 0) :
    encodeBytes (b ++ rest) = encodeBlock b ++ encodeBytes rest := by
  induction b using encodeBytes.induct with
  | case1 b0 b1 b2 b ih =>
    have whole : b.length % 3 = 0 := by simpa [Nat.add_assoc] using h
    simp only [List.cons_append, encodeBytes, encodeBlock, encodeGroup, ih whole, rangeTranslate_eq_encodeTable,
      sextet0_eq_slice b0 b1 b2, sextet1_eq_slice b0 b1 b2, sextet2_eq_slice b0 b1 b2, sextet3_eq_slice b0 b1 b2,
      List.nil_append]
  | case2 b0 b1 => simp at h
  | case3 b0 => simp at h
  | case4 => rfl

/-- Settles O59, by induction on the number of blocks taken. -/
theorem blockEncodeEqualsScalarEncode : Obligations.BlockEncodeEqualsScalarEncode := by
  intro blockGroups fuel b
  induction fuel generalizing b with
  | zero => rfl
  | succ fuel ih =>
    rw [encodeBlocks]
    split_ifs with fits
    · have whole : (b.take (3 * blockGroups)).length % 3 = 0 := by
        rw [List.length_take, Nat.min_eq_left fits.2, Nat.mul_mod_right]
      rw [ih, ← encodeBytes_append _ _ whole, List.take_append_drop]
    · rfl

/-! ## Decode: the scalar rules on a part of a text -/

section
variable {groups i : Nat}

theorem scalarDecodeFrom_err_iff {t : List Byte} {kind : ErrorKind} :
    scalarDecodeFrom groups i t = .err kind ↔
      (symbolErrors groups i none (t.map fun b => some (decodeTable b))).head? = some kind := by
  unfold scalarDecodeFrom
  cases symbolErrors groups i none (t.map fun b => some (decodeTable b)) <;> simp

theorem scalarDecodeFrom_ok_iff {t bytes : List Byte} :
    scalarDecodeFrom groups i t = .ok bytes ↔
      symbolErrors groups i none (t.map fun b => some (decodeTable b)) = [] ∧
        packGroups (t.map decodeTable) = bytes := by
  unfold scalarDecodeFrom
  cases symbolErrors groups i none (t.map fun b => some (decodeTable b)) <;> simp

/-- The errors of a part that starts and ends between two groups stand before those of the rest. -/
theorem symbolErrors_text_append {t : List Byte} (rest : List Byte) (hi : i % 4 = 0) (ht : t.length % 4 = 0) :
    symbolErrors groups i none ((t ++ rest).map fun b => some (decodeTable b)) =
      symbolErrors groups i none (t.map fun b => some (decodeTable b)) ++
        symbolErrors groups (i + t.length) none (rest.map fun b => some (decodeTable b)) := by
  rw [List.map_append, symbolErrors_append _ _ _ _ _ (by rw [List.length_map]; omega), List.length_map]

variable {t : List Byte} (rest : List Byte) (hi : i % 4 = 0) (ht : t.length % 4 = 0)
include hi ht

/-- An error of a block is the answer for the whole text: it is at a lower index than any error after the block. -/
theorem scalarDecodeFrom_append_of_err {kind : ErrorKind} (h : scalarDecodeFrom groups i t = .err kind) :
    scalarDecodeFrom groups i (t ++ rest) = .err kind := by
  rw [scalarDecodeFrom_err_iff] at h ⊢
  rw [symbolErrors_text_append rest hi ht, List.head?_append, h, Option.some_or]

/-- After a block without an error the rest decides. -/
theorem scalarDecodeFrom_append_of_ok {front : List Byte} (h : scalarDecodeFrom groups i t = .ok front) :
    scalarDecodeFrom groups i (t ++ rest) = Answer.prepend front (scalarDecodeFrom groups (i + t.length) rest) := by
  obtain ⟨clean, rfl⟩ := scalarDecodeFrom_ok_iff.1 h
  have errors := symbolErrors_text_append (groups := groups) rest hi ht
  rw [clean, List.nil_append] at errors
  cases answer : scalarDecodeFrom groups (i + t.length) rest with
  | err kind => exact scalarDecodeFrom_err_iff.2 (errors ▸ scalarDecodeFrom_err_iff.1 answer)
  | ok bytes =>
    obtain ⟨restClean, rfl⟩ := scalarDecodeFrom_ok_iff.1 answer
    refine scalarDecodeFrom_ok_iff.2 ⟨errors.trans restClean, ?_⟩
    rw [List.map_append, packGroups_append _ _ (by rwa [List.length_map])]

end

/-! ## Decode: the block step -/

/-- A block is accepted where every symbol is a value, and classified as DecodeTable does (R183, R185). -/
theorem map_decodeTable_of_classifyBlock {t : List Byte} {vs : List Sextet} (h : classifyBlock t = some vs) :
    t.map decodeTable = vs.map .val := by
  induction t generalizing vs with
  | nil =>
    cases h
    rfl
  | cons b rest ih =>
    rw [classifyBlock] at h
    cases hb : decodeTable b with
    | val v =>
      cases hr : classifyBlock rest with
      | none => simp [hb, hr] at h
      | some us =>
        obtain rfl : v :: us = vs := by simpa [hb, hr] using h
        rw [List.map_cons, hb, ih hr, List.map_cons]
    | pad => simp [hb] at h
    | invalid => simp [hb] at h

/-- R152: a value has an error only after a `=`, and there is none before or among values. -/
theorem symbolErrors_of_values (groups i : Nat) {before : Option SymbolClass} (vs : List Sextet)
    (hb : before ≠ some .pad) : symbolErrors groups i before (vs.map fun v => some (.val v)) = [] := by
  induction vs generalizing i before with
  | nil => rfl
  | cons v vs ih =>
    have clean : symbolError groups i before (.val v) = none := if_neg fun h => hb h.2
    rw [List.map_cons, symbolErrors, clean]
    exact ih (i + 1) (by simp)

/-- R153: the inverse reshuffle is GroupBytes of four values. -/
theorem packGroups_values (vs : List Sextet) : packGroups (vs.map .val) = packBlock vs := by
  match vs with
  | v0 :: v1 :: v2 :: v3 :: vs =>
    simp only [List.map_cons, packGroups, groupBytes, packBlock, packGroups_values vs,
      groupByte0_eq_slice v0 v1 v2 v3, groupByte1_eq_slice v0 v1 v2 v3, groupByte2_eq_slice v0 v1 v2 v3, sextetGroup]
  | [] | [_] | [_, _] | [_, _, _] => rfl

/-- The scalar rules give an accepted block the bytes of the block step. -/
theorem scalarDecodeFrom_of_classifyBlock (groups i : Nat) {t : List Byte} {vs : List Sextet}
    (h : classifyBlock t = some vs) : scalarDecodeFrom groups i t = .ok (packBlock vs) := by
  have classes := map_decodeTable_of_classifyBlock h
  refine scalarDecodeFrom_ok_iff.2 ⟨?_, by rw [classes, packGroups_values]⟩
  have reads : (t.map fun b => some (decodeTable b)) = vs.map fun v => some (.val v) := by
    simpa [Function.comp_def] using congrArg (List.map some) classes
  rw [reads, symbolErrors_of_values groups i vs (by simp)]

/-- Blocks taken from a group's first symbol on change no answer of the scalar rules. -/
theorem decodeBlocksFrom_eq_scalarDecodeFrom (groups blockGroups fuel : Nat) {i : Nat} (t : List Byte)
    (hi : i % 4 = 0) : decodeBlocksFrom groups blockGroups fuel i t = scalarDecodeFrom groups i t := by
  induction fuel generalizing i t with
  | zero => rfl
  | succ fuel ih =>
    rw [decodeBlocksFrom]
    split_ifs with fits
    · have len : (t.take (4 * blockGroups)).length = 4 * blockGroups := List.length_take_of_le fits.2.le
      have whole : (t.take (4 * blockGroups)).length % 4 = 0 := by rw [len, Nat.mul_mod_right]
      have after (front : List Byte) (h : scalarDecodeFrom groups i (t.take (4 * blockGroups)) = .ok front) :
          Answer.prepend front
              (decodeBlocksFrom groups blockGroups fuel (i + 4 * blockGroups) (t.drop (4 * blockGroups))) =
            scalarDecodeFrom groups i t := by
        rw [ih _ (by omega), ← len, ← scalarDecodeFrom_append_of_ok _ hi whole h, len, List.take_append_drop]
      cases accepted : classifyBlock (t.take (4 * blockGroups)) with
      | some vs => exact after _ (scalarDecodeFrom_of_classifyBlock groups i accepted)
      | none =>
        cases answer : scalarDecodeFrom groups i (t.take (4 * blockGroups)) with
        | ok front => exact after front answer
        | err kind =>
          have text_error := scalarDecodeFrom_append_of_err (t.drop (4 * blockGroups)) hi whole answer
          rw [List.take_append_drop] at text_error
          exact text_error.symm
    · rfl

/-- Settles O60: from index 0 the scalar rules are DecodeText. -/
theorem blockDecodeEqualsScalarDecode : Obligations.BlockDecodeEqualsScalarDecode := by
  intro blockGroups fuel t
  rw [decodeBlocks, decodeBlocksFrom_eq_scalarDecodeFrom _ _ _ _ (Nat.zero_mod 4)]
  rfl

end Sys2Proof.Machine
end

section
/-! PROOFS. The invariant of every step, and the illegal commands (60_exceptions.md R191, R196, R197; 10_state.md
R31, R35, R37). -/

namespace Sys2Proof.Machine

open Sys2Proof

/-! ## States that meet the invariant -/

/-- While IDLE the invariant is about memory and the completion registers only. -/
theorem Inv.of_idle {s : State} (hb : s.busy = false) (hm : Memory.wf s.mem = true)
    (hc : legalErrorCode s.errCode = true) (hr : s.errCode ≠ 0#4 → s.result = 0#32) : Inv s where
  memory := hm
  codes := hc
  failedCount := hr
  busyDone := by simp [hb]
  busyCode := by simp [hb]
  busyResult := by simp [hb]
  busyLegal := by simp [hb]

/-- What keeps BUSY, ERR_CODE, RESULT, LOP and the canonical form, and does not set DONE, keeps the invariant. -/
theorem Inv.congr {s t : State} (hs : Inv s) (hb : t.busy = s.busy) (hd : s.done = false → t.done = false)
    (hc : t.errCode = s.errCode) (hr : t.result = s.result) (hl : t.lop = s.lop)
    (hm : Memory.wf s.mem = true → Memory.wf t.mem = true) : Inv t where
  memory := hm hs.memory
  codes := by rw [hc]; exact hs.codes
  failedCount := by rw [hc, hr]; exact hs.failedCount
  busyDone := by rw [hb]; exact hd ∘ hs.busyDone
  busyCode := by rw [hb, hc]; exact hs.busyCode
  busyResult := by rw [hb, hr]; exact hs.busyResult
  busyLegal := by rw [hb, hl]; exact hs.busyLegal

/-- The kinds of R190 are none of the reserved codes (60_exceptions.md R197). -/
theorem legalErrorCode_code (kind : ErrorKind) : legalErrorCode kind.code = true := by
  cases kind <;> rfl

theorem inv_raiseError (kind : ErrorKind) {s : State} (hm : Memory.wf s.mem = true) : Inv (raiseError kind s) :=
  .of_idle rfl hm (legalErrorCode_code kind) fun _ => rfl

theorem inv_complete (n : Nat) {s : State} (hm : Memory.wf s.mem = true) : Inv (complete n s) :=
  .of_idle rfl hm rfl fun h => absurd rfl h

/-- Both completion steps establish the invariant, whatever the registers held before. -/
theorem exec_inv {i : Instr} {s t : State} (hm : Memory.wf s.mem = true) (h : exec i s = .next t) : Inv t := by
  rcases exec_cases h with ⟨kind, u, rfl, -, hu⟩ | ⟨n, u, rfl, -, hu⟩ | rfl
  · exact inv_raiseError kind (wf_scramble _ u (hu ▸ hm))
  · exact inv_complete n (hu hm)
  · exact inv_raiseError _ hm

/-- The accepted start of a legal command meets the invariant: the latch clears what BUSY wants 0 (10_state.md R37). -/
theorem inv_enterBusy_latch {s : State} {w : Word} (hm : Memory.wf s.mem = true)
    (hl : (decodeWord w).legal = true) : Inv (enterBusy (latch w s)) where
  memory := hm
  codes := rfl
  failedCount := fun h => absurd rfl h
  busyDone := fun _ => rfl
  busyCode := fun _ => rfl
  busyResult := fun _ => rfl
  busyLegal := fun _ => hl

/-! ## The turns -/

theorem inv_writeStatus (w : Word) {s : State} (hs : Inv s) : Inv (writeStatus w s) := by
  rw [writeStatus_eq]
  exact hs.congr rfl (fun hd => by simp [hd]) rfl rfl rfl id

/-- An aborted command leaves its DW scrambled, which keeps memory canonical; the block is IDLE, no error. -/
theorem inv_assertReset {s : State} (hs : Inv s) : Inv (assertReset s) := by
  refine .of_idle rfl ?_ rfl fun h => absurd rfl h
  rw [assertReset, resetBlock_mem]
  split
  · exact wf_scramble _ s hs.memory
  · exact hs.memory

theorem Inv.of_writeReg {r : Reg} {w : Word} {s t : State} (hs : Inv s)
    (h : writeReg r w s = .next t ∨ ∃ i u, writeReg r w s = .run i u ∧ exec i u = .next t) : Inv t := by
  rcases writeReg_cases h with
    ⟨-, -, rfl⟩ | ⟨-, -, hl, rfl⟩ | ⟨-, -, -, he⟩ | ⟨-, rfl⟩ | ⟨hb, hd, -, hc, hr, hlop, hmem, -⟩
  · exact hs.congr rfl id rfl rfl rfl id
  · exact inv_enterBusy_latch hs.memory hl
  · exact exec_inv (s := latch w s) hs.memory he
  · exact inv_writeStatus w hs
  · exact hs.congr hb hd.trans hc hr hlop fun hm => hmem ▸ hm

/-- A turn that runs no command answers its own state. -/
theorem eq_of_next_turn {t v : State}
    (h : Turn.next v = .next t ∨ ∃ i u, Turn.next v = .run i u ∧ exec i u = .next t) : v = t := by
  simpa using h

theorem Inv.of_turnShape {s t : State} {u : Turn} (hs : Inv s) (hu : TurnShape s u)
    (h : u = .next t ∨ ∃ i v, u = .run i v ∧ exec i v = .next t) : Inv t := by
  have popped : Inv { s with inbox := s.inbox.tail } := hs.congr rfl id rfl rfl rfl id
  cases hu with
  | write => exact popped.of_writeReg h
  | engine =>
    rcases engineTurn_cases h with ⟨-, hx⟩ | ⟨-, rfl⟩
    · exact exec_inv popped.memory hx
    · exact popped
  | reset =>
    obtain rfl := eq_of_next_turn h
    exact inv_assertReset popped
  | quiet v hv =>
    obtain rfl := eq_of_next_turn h
    obtain ⟨hb, hd, -, hc, hr, hl, hm⟩ := hv
    exact hs.congr hb hd.trans hc hr hl hm
  | refused q => simp at h

/-- Settles O54: by the shape of the turn the step takes. -/
theorem everyStepKeepsTheInvariant : Obligations.EveryStepKeepsTheInvariant :=
  fun s _ hs h => hs.of_turnShape (turn_shape s) (step_next h)

/-! ## The illegal commands -/

/-- The illegal commands are those of OP 0, 5, 6 and 7 (30_encoding.md R94). -/
theorem legal_eq_false_iff (i : Instr) :
    i.legal = false ↔ i = .illegal0 ∨ i = .illegal5 ∨ i = .illegal6 ∨ i = .illegal7 := by
  cases i <;> decide

theorem decodeOp_legal_eq_false_iff (op : BitVec 3) :
    (decodeOp op).legal = false ↔ op = 0#3 ∨ op = 5#3 ∨ op = 6#3 ∨ op = 7#3 := by
  decide +revert

/-- R196: an illegal command raises IllegalCommand, in every state. -/
theorem exec_illegal {i : Instr} (hl : i.legal = false) (s : State) :
    exec i s = .next (raiseError .illegalCommand s) := by
  rcases (legal_eq_false_iff i).1 hl with rfl | rfl | rfl | rfl <;> rfl

/-- Settles O43: `raiseError` is the state change named. -/
theorem illegalCommandsComplete : Obligations.IllegalCommandsComplete :=
  fun s i hi => exec_illegal ((legal_eq_false_iff i).2 hi) s

/-- Settles O11: the CMD write runs the illegal command on the latched operands, and BUSY stays 0. -/
theorem illegalOpcodeCompletesAtOnce : Obligations.IllegalOpcodeCompletesAtOnce := by
  intro s w hb hop
  have hl : (decodeWord w).legal = false := (decodeOp_legal_eq_false_iff _).2 hop
  rw [step_cmd_illegal hb hl, exec_illegal hl, hb]
  rfl

end Sys2Proof.Machine
end

section
/-! PROOFS. Reset, and the accesses the register window refuses (70_reset_and_hazards.md R220, R221, R230). -/

namespace Sys2Proof.Machine

open Sys2Proof

/-! ## Reset -/

/-- A reset is taken in every state. -/
theorem step_reset (s : State) : step (s.withEvent .reset) = .next (assertReset s) := by
  rw [step_eq_outcome, turn_withEvent, deliver]
  rfl

/-- R220: every register reads 0 once the block has its reset values; STATUS.ERR too, as ERR_CODE is 0. -/
theorem readReg_resetBlock (r : Reg) (s : State) : readReg r (resetBlock s) = 0#32 := by
  cases r with
  | status => simp [readReg, State.statusWord, State.err]
  | ctrl | cmd | errCode | srcAddr | srcLen | dstAddr | result => rfl

/-- The block of State.reset has its reset values already. -/
theorem resetBlock_reset : resetBlock State.reset = State.reset := rfl

/-- Settles O5: `assertReset` ends in `resetBlock`, whether or not it aborts a command. -/
theorem resetClearsTheRegisterWindow : Obligations.ResetClearsTheRegisterWindow :=
  ⟨fun r => resetBlock_reset ▸ readReg_resetBlock r State.reset, rfl, rfl,
    fun s => ⟨assertReset s, step_reset s, fun r => readReg_resetBlock r _, rfl, rfl⟩⟩

/-! ## The bytes a reset may change -/

theorem assertReset_busy {s : State} (h : s.busy = true) : assertReset s = resetBlock (abortCommand s) := by
  rw [assertReset, if_pos h]

theorem assertReset_idle {s : State} (h : s.busy = false) : assertReset s = resetBlock s := by
  simp [assertReset, h]

theorem runningDst_busy {s : State} (h : s.busy = true) : s.runningDst = dstWindow (decodeOp s.lop) s := if_pos h

/-- R221: an abort makes the bytes of DW UNPREDICTABLE and no others. -/
theorem sameOutside_assertReset {s : State} (h : s.busy = true) :
    SameOutside (dstWindow (decodeOp s.lop) s) s (assertReset s) := by
  rw [assertReset_busy h, ← runningDst_busy h]
  have hlen : s.runningDst.len ≤ 2 ^ 32 := runningDst_busy h ▸ (dstWindow_len_lt _ s).le
  exact fun x hx => memByte_scramble_outside s.runningDst s x hx hlen

theorem sameMemory_assertReset {s : State} (h : s.busy = false) : SameMemory s (assertReset s) := by
  rw [assertReset_idle h]
  exact fun _ => rfl

/-- Settles O6: DONE and CTRL.IE are among the reset values; memory by whether there is a command to abort. -/
theorem resetWhileBusyAborts : Obligations.ResetWhileBusyAborts :=
  fun s => ⟨assertReset s, step_reset s, rfl, rfl, sameOutside_assertReset, sameMemory_assertReset⟩

/-- Settles O53: State.reset is IDLE, ERR_CODE is 0 and no byte has been written. -/
theorem resetStateMeetsTheInvariant : Obligations.ResetStateMeetsTheInvariant :=
  .of_idle rfl rfl rfl fun h => absurd rfl h

/-! ## Accesses the register window refuses -/

/-- An access touches the register window as soon as one of its bytes lies there, wherever it begins. -/
theorem touchesRegisters_of_has {s : State} {a : Addr} {size j : Nat} (hj : j < size)
    (h : s.registerWindow.has (elementAddr a j) = true) : s.touchesRegisters a size = true :=
  (Window.overlaps_iff _ _).2 ⟨elementAddr a j, h, has_elementAddr a size j hj⟩

theorem registerAccessWellFormed_eq_false {offset size : Nat} (h : size ≠ 4 ∨ offset % 4 ≠ 0) :
    registerAccessWellFormed offset size = false := by
  rcases h with h | h <;> simp [registerAccessWellFormed, h]

section
variable {s : State} {a : Addr}

theorem step_busWrite_undefined {bytes : List Byte} (q : Requester) (ht : s.touchesRegisters a bytes.length = true)
    (hw : registerAccessWellFormed (s.offsetOf a) bytes.length = false) :
    step (s.withEvent (.busWrite q a bytes)) = .refused .undefinedRegisterAccess := by
  rw [step_eq_outcome, turn_withEvent, deliver, busWrite, if_pos ht]
  simp [registerWrite, hw, Turn.outcome]

theorem step_busRead_undefined {size : Nat} (ht : s.touchesRegisters a size = true)
    (hw : registerAccessWellFormed (s.offsetOf a) size = false) :
    step (s.withEvent (.busRead a size)) = .refused .undefinedRegisterAccess := by
  rw [step_eq_outcome, turn_withEvent, deliver, busRead, if_pos ht]
  simp [registerRead, hw, Turn.outcome]
end

/-- Settles O9: the access goes to the register window, whose check of size and offset it fails. -/
theorem otherRegisterAccessesAreRefused : Obligations.OtherRegisterAccessesAreRefused := by
  rintro s q a bytes size ⟨j, hj, hreg⟩ rfl hbad
  have touches : s.touchesRegisters a bytes.length = true := touchesRegisters_of_has hj hreg
  have malformed : registerAccessWellFormed (s.offsetOf a) bytes.length = false :=
    registerAccessWellFormed_eq_false hbad
  exact ⟨step_busWrite_undefined q touches malformed, step_busRead_undefined touches malformed⟩

end Sys2Proof.Machine
end
